-- ==== Sys2Proof/Word.lean ====
section
/-! DEFINITION. The data units of the spec: the byte (R10, R60), byte strings (R10, R60) and wire values, which are
`ABSENT` or a byte string (R12). -/

namespace Sys2Proof

/-- A byte: 8 bits, bit 7 the most significant (R10). -/
abbrev Byte := BitVec 8

/-- A byte string, first byte first (R10, R61). `EMPTY` is `[]`. -/
abbrev Bytes := List Byte

/-- A wire value (R12): `none` is `ABSENT`, the "nothing arrived" signal, distinct from every byte string. -/
abbrev Wire := Option Bytes

end Sys2Proof
end

