-- ==== Sys2Proof/Syntax.lean ====
section
/-! DEFINITION. Frames and decode results (R14, R117), register selectors (R39), the opcode map's names and formats
(R86-R94), and `Instr`, one constructor per row of spec/opcode_table.json: the 18 commands and the 2 kinds of wire
frame. -/

namespace Sys2Proof

/-- The two kinds of frame (R14, R81). -/
inductive FrameKind where
  | data
  | ack
deriving DecidableEq, Repr

/-- A frame record (R14). The integrity code is in the wire form only. -/
structure Frame where
  kind       : FrameKind
  seqNum     : Byte
  payload    : Bytes
  senderId   : Byte
  receiverId : Byte
deriving DecidableEq, Repr

/-- Why a byte string is no valid frame (R252): classes 1 STRUCTURAL and 2 INTEGRITY; class 0 NONE is a valid result. -/
inductive ErrClass where
  | structural
  | integrity
deriving DecidableEq, Repr

/-- The result of `Decode` (R32, R115). A corrupt result carries its class and diagnostic sequence number and nothing
else (R117, D7); the diagnostic number of a valid one is the frame's own (R116). -/
inductive DecodeResult where
  | corrupt (errClass : ErrClass) (diagSeq : Byte)
  | valid (f : Frame)
deriving DecidableEq, Repr

/-- The registers `READ` can name (R39; the configuration fields R21). Probabilities have no selector. -/
inductive Selector where
  | base
  | nextSeq
  | outstanding
  | timerRunning
  | timerStart
  | now
  | expected
  | logLen
  | chState
  | txCount
  | retxCount
  | fault
  | phase
  | windowSize
  | seqBits
  | maxSeq
  | timeout
  | channelMode
  | senderTag
  | receiverTag
  | maxPayload
  | logCapacity
deriving DecidableEq, Repr

/-- The command formats (R86-R92). -/
inductive Format where
  | n
  | s
  | r
  | t
  | i
  | f
  | b
deriving DecidableEq, Repr

/-- The mnemonics of the opcode map (R94). -/
inductive Opcode where
  | crc32
  | verify
  | encode
  | decode
  | isCorrupt
  | propagate
  | propagateBsc
  | submit
  | onAck
  | ackIn
  | isTimeout
  | retransmit
  | onFrame
  | tick
  | read
  | readBuf
  | readLog
  | reset
deriving DecidableEq, Repr

/-- Why a byte string is no legal command (R85, R95). All of them have the one effect of R85. -/
inductive DecodeError where
  /-- The byte string is empty, so it has no opcode. -/
  | noOpcode
  /-- Byte 0 is not in the opcode map. -/
  | unknownOpcode (op : Byte)
  /-- The byte count is not what the format and its length field give. -/
  | wrongLength
  /-- Format B with `pres` other than 0 or 1, or `pres = 0` with `L != 0`. -/
  | badPresence
  /-- `ABSENT` for a command that needs bytes. -/
  | absentOperand
  /-- Format F with `kind` other than 0 or 1. -/
  | badKind
  /-- Format F with `L > 65527`. -/
  | payloadTooLong
  /-- Format R with a selector not in R39. -/
  | badSelector
deriving DecidableEq, Repr

/-- The instructions: one constructor per row of the opcode table, in the table's order. An operand that needs bytes
(R95) is a byte string, so `ABSENT` cannot be written there. -/
inductive Instr where
  /-- `CRC32` b (R111). -/
  | crc32 (b : Bytes)
  /-- `VERIFY` b (R112). -/
  | verify (b : Bytes)
  /-- `ENCODE` f (R114). -/
  | encode (f : Frame)
  /-- `DECODE` b (R118). -/
  | decode (b : Bytes)
  /-- `IS_CORRUPT` (R119). -/
  | isCorrupt
  /-- `PROPAGATE` w (R149). -/
  | propagate (w : Wire)
  /-- `PROPAGATE_BSC` w (R150). -/
  | propagateBsc (w : Wire)
  /-- `SUBMIT` p (R170). -/
  | submit (p : Bytes)
  /-- `ON_ACK` a (R174). -/
  | onAck (a : Byte)
  /-- `ACK_IN` w (R178). -/
  | ackIn (w : Wire)
  /-- `IS_TIMEOUT` (R185). -/
  | isTimeout
  /-- `RETRANSMIT` (R188). -/
  | retransmit
  /-- `ON_FRAME` w (R210). -/
  | onFrame (w : Wire)
  /-- `TICK` d (R231). -/
  | tick (d : BitVec 32)
  /-- `READ` sel (R233). -/
  | read (sel : Selector)
  /-- `READ_BUF` s (R234). -/
  | readBuf (q : Byte)
  /-- `READ_LOG` i (R235). -/
  | readLog (i : BitVec 16)
  /-- `RESET` (R230). -/
  | reset
  /-- A wire frame of kind DATA (R80, R115): its checksum is the CRC of the rest. -/
  | frameData (seqNum senderId receiverId : Byte) (payload : Bytes)
  /-- A wire frame of kind ACK (R80, R115): its checksum is the CRC of the rest. -/
  | frameAck (seqNum senderId receiverId : Byte) (payload : Bytes)
deriving DecidableEq, Repr

/-- Does the instruction arrive on the command port? Every one does but the two wire frames, which travel inside
operands and responses (R4, R5, R94). -/
def Instr.isCommand : Instr → Bool
  | .crc32 _ | .verify _ | .encode _ | .decode _ | .isCorrupt => true
  | .propagate _ | .propagateBsc _ => true
  | .submit _ | .onAck _ | .ackIn _ | .isTimeout | .retransmit => true
  | .onFrame _ => true
  | .tick _ | .read _ | .readBuf _ | .readLog _ | .reset => true
  | .frameData _ _ _ _ | .frameAck _ _ _ _ => false

end Sys2Proof
end

