-- ==== Sys2Proof/Config.lean ====
section
/-! DEFINITION. The configuration record (R21), which the block samples at reset, the channel strategies its
CHANNEL_MODE field names (R140), and the free values: opaque constants that nothing can evaluate (assumptions 5, 11
and 12). -/

namespace Sys2Proof

/-- A probability as an exact rational (DESIGN CHOICE, assumption 9: PROB_FORMAT is open, D13). A record may hold one
outside `[0,1]`: it is then illegal (R22). -/
abbrev Prob := Rat

/-- The configuration record (R21), each field at the width the spec gives it. MAX_SEQ is derived (`Cfg.maxSeq`). -/
structure Cfg where
  /-- WINDOW_SIZE, the `N` of the rules. -/
  windowSize  : BitVec 8
  /-- SEQ_BITS. -/
  seqBits     : BitVec 4
  /-- TIMEOUT, in ticks. -/
  timeout     : Nat
  /-- CHANNEL_MODE, as its code. -/
  modeCode    : BitVec 3
  /-- SENDER_TAG. -/
  senderTag   : Byte
  /-- RECEIVER_TAG. -/
  receiverTag : Byte
  /-- MAX_PAYLOAD. -/
  maxPayload  : BitVec 16
  /-- LOG_CAPACITY; `none` is UNBOUNDED. -/
  logCapacity : Option Nat
  /-- `P`, Good to Bad. -/
  probP       : Prob
  /-- `R`, Bad to Good. -/
  probR       : Prob
  /-- `K`, bit flip in Good. -/
  probK       : Prob
  /-- `H`, bit flip in Bad. -/
  probH       : Prob
  /-- BSC_P. -/
  bscP        : Prob
  /-- PROB_LOSS. -/
  probLoss    : Prob
deriving DecidableEq, Repr

/-- The channel strategies (R140). -/
inductive ChannelMode where
  | ideal
  | ge
  | bsc
  | lossGe
  | lossBsc
deriving DecidableEq, Repr

/-- Configuration C0 of 95_test_vectors.md: what `State.reset` finds on the configuration port (DESIGN CHOICE,
assumption 7: the spec gives the port no value, R9). -/
def Cfg.c0 : Cfg :=
  { windowSize := 4, seqBits := 3, timeout := 10, modeCode := 0, senderTag := 0x53, receiverTag := 0x52,
    maxPayload := 16, logCapacity := none, probP := 0, probR := 0, probK := 0, probH := 0, bscP := 0, probLoss := 0 }

/-- FREE VALUE (R141, D12; assumption 5): the entropy port's answer to the draw with this index, where `0 < p < 1` and
the host has supplied no answer. -/
opaque Config.freeDraw : Nat → Bool

/-- FREE VALUE (R39, R96; assumption 11): what `READ` returns for a register whose value does not fit 64 bits. -/
opaque Config.wideRead : Selector → Nat → BitVec 64

/-- FREE VALUE (R21; assumption 12): what the 9-bit MAX_SEQ field reads as when SEQ_BITS is over 8. -/
opaque Config.wideMaxSeq : BitVec 4 → BitVec 9

end Sys2Proof
end

