-- ==== Sys2Proof/Machine/State.lean ====
section
/-! DEFINITION. The machine's state (R20) and ports (R5) as plain data, the responses it gives (R96, R250), the reasons
a step can stop, and the state right after power-on reset (R40, R282). -/

namespace Sys2Proof.Machine

/-- The Gilbert-Elliott state (R31). -/
inductive ChState where
  | good
  | bad
deriving DecidableEq, Repr

/-- The sender's derived phase (R37). -/
inductive Phase where
  | idle
  | armed
  | expired
deriving DecidableEq, Repr

/-- The status of a response (R250). -/
inductive Status where
  | ok
  | windowFull
  | payloadTooLong
  | ackDuplicate
  | ackStale
  | ackOutOfRange
  | nothingArrived
  | corruptStructural
  | corruptIntegrity
  | outOfOrder
  | notAck
  | noEntry
  | halted
  | fault
deriving DecidableEq, Repr

/-- One output of a response, by the kind R96 encodes. -/
inductive Output where
  | flag (v : Bool)
  | byte (v : Byte)
  | word32 (v : BitVec 32)
  | word64 (v : BitVec 64)
  | wire (w : Wire)
  | wires (ws : List Wire)
  | frame (f : Frame)
deriving DecidableEq, Repr

/-- A response: a status and the command's outputs in its rule's order (R96). Its bytes are `responseBytes`. -/
structure Response where
  status  : Status
  outputs : List Output
deriving DecidableEq, Repr

/-- The entropy port (R5, R141). -/
structure Entropy where
  /-- The host's answers to draws with `0 < p < 1`, the next one first (assumption 5). -/
  answers : List Bool
  /-- The draws taken so far, newest first: the draw sequence of R141 (the model's own field, assumption 6). -/
  drawn   : List (Prob × Bool)
deriving DecidableEq, Repr

/-- The retransmission buffer: the slots that are not `NONE`, with rising sequence numbers (R26, R63). -/
abbrev Buf := List (Nat × Frame)

/-- The state of the block (R20) and of its ports (R5). -/
structure State where
  /-- `cfg`, the sampled configuration (R21, R23). -/
  cfg          : Cfg
  /-- `base` (R24). -/
  base         : Byte
  /-- `next_seq` (R25). -/
  nextSeq      : Byte
  /-- `buf` (R26, R63). -/
  buf          : Buf
  /-- `timer_running` (R27). -/
  timerRunning : Bool
  /-- `timer_start` (R27). -/
  timerStart   : Nat
  /-- `tx_count` (R28). -/
  txCount      : Nat
  /-- `retx_count` (R28). -/
  retxCount    : Nat
  /-- `expected` (R29). -/
  expected     : Byte
  /-- `log` (R30, R64). -/
  log          : List Bytes
  /-- `ch_state` (R31). -/
  chState      : ChState
  /-- `DR` (R32); `none` is `NONE`. -/
  dr           : Option DecodeResult
  /-- `now` (R34). -/
  now          : Nat
  /-- `fault` (R35). -/
  fault        : BitVec 8
  /-- The configuration port: what `RESET` samples (R5, R230). -/
  cfgPort      : Cfg
  /-- The command port's input: commands written and not yet executed, oldest first (R5, R70; assumption 1). -/
  commands     : List Bytes
  /-- The command port's output: one response per executed command, oldest first (R5, R96; assumption 4). -/
  responses    : List Response
  /-- The entropy port (R5, R141). -/
  entropy      : Entropy
deriving DecidableEq, Repr

/-- Why a step stops. The spec stops the block nowhere (R253): its own faults are bits of `fault`, set in a next
state. -/
inductive Fault where
  /-- Raised by every command but `READ` and `RESET` in a state whose configuration is illegal though `fault = 0`. No
  run reaches such a state: `RESET` halts the block under an illegal configuration (R281). Safe (assumption 16). -/
  | illegalConfigurationRunning
deriving DecidableEq, Repr

/-- Why a step gives an instruction no meaning. -/
inductive Refusal where
  /-- Raised by an arm of `exec` whose instruction has no meaning yet; no arm is such an arm. Safe. -/
  | notModelled (mnemonic : String)
deriving DecidableEq, Repr

/-- The machine right after power-on (R40, R280, R282), with configuration C0 on the configuration port (DESIGN CHOICE,
assumption 7), no command pending, no response given, no answer supplied and no draw taken. C0 is legal, so no fault bit
is set. -/
def State.reset : State :=
  { cfg := Cfg.c0, base := 0, nextSeq := 0, buf := [], timerRunning := false, timerStart := 0, txCount := 0,
    retxCount := 0, expected := 0, log := [], chState := .good, dr := none, now := 0, fault := 0, cfgPort := Cfg.c0,
    commands := [], responses := [], entropy := { answers := [], drawn := [] } }

end Sys2Proof.Machine
end

