-- ==== Sys2Proof/Machine/Flags.lean ====
section
/-! DEFINITION. The sticky `fault` register (R35, R256): its bits, setting one, and being halted (R257). -/

namespace Sys2Proof.Machine

/-- F_ILLEGAL_COMMAND, bit 0. -/
def fIllegalCommand : BitVec 8 := 0x01

/-- F_NO_DECODE_RESULT, bit 1. -/
def fNoDecodeResult : BitVec 8 := 0x02

/-- F_ACK_BEYOND_NEXT, bit 2. -/
def fAckBeyondNext : BitVec 8 := 0x04

/-- F_LOG_FULL, bit 3. -/
def fLogFull : BitVec 8 := 0x08

/-- F_CONFIG_INVALID, bit 4. -/
def fConfigInvalid : BitVec 8 := 0x10

/-- Set a fault bit; the others keep their value (R35). -/
def setFault (bit : BitVec 8) (s : State) : State := { s with fault := s.fault ||| bit }

/-- The block is halted: some fault bit is set (R257). -/
def halted (s : State) : Bool := s.fault != 0

end Sys2Proof.Machine
end

