-- ==== Sys2Proof/WellFormed.lean ====
section
/-! DEFINITION. Which instructions have an encoding: byte strings fit the 16-bit length field (R60, R92), payloads of a
frame record are at most 65527 bytes (R91), and so is a wire frame's, whose bytes must fit an operand (R83, R92). -/

namespace Sys2Proof

/-- The longest byte string an operand carries (R92). -/
def maxOperandBytes : Nat := 65535

/-- The longest payload of a frame record (R91). -/
def maxFramePayload : Nat := 65527

/-- A byte string fits format B. -/
def fitsOperand (b : Bytes) : Bool := b.length ≤ maxOperandBytes

/-- A wire value fits format B. -/
def wireFits : Wire → Bool
  | none => true
  | some b => fitsOperand b

/-- A payload fits a frame record. -/
def fitsFrame (p : Bytes) : Bool := p.length ≤ maxFramePayload

/-- The instruction has an encoding. -/
def Instr.wellFormed : Instr → Bool
  | .crc32 b | .verify b | .decode b | .submit b => fitsOperand b
  | .encode f => fitsFrame f.payload
  | .propagate w | .propagateBsc w | .ackIn w | .onFrame w => wireFits w
  | .isCorrupt | .onAck _ | .isTimeout | .retransmit => true
  | .tick _ | .read _ | .readBuf _ | .readLog _ | .reset => true
  | .frameData _ _ _ p | .frameAck _ _ _ p => fitsFrame p

end Sys2Proof
end

