-- ==== Sys2Proof/Decode.lean ====
section
/-! DEFINITION. The two encodings of 30_encoding.md: the wire frame (R80-R83, R110, R113, R115) and the command format
(R85-R95, R99), each with its decoder and its encoder. The decoders are total; a command that is refused is refused by
name. -/

namespace Sys2Proof

/-! ### Big-endian packing (R10, R61) -/

/-- `be16(v)`. -/
def be16 (v : BitVec 16) : Bytes := [v.extractLsb' 8 8, v.extractLsb' 0 8]

/-- `be32(v)`. -/
def be32 (v : BitVec 32) : Bytes :=
  [v.extractLsb' 24 8, v.extractLsb' 16 8, v.extractLsb' 8 8, v.extractLsb' 0 8]

/-- `be64(v)`, for the 64-bit values of responses (R96). -/
def be64 (v : BitVec 64) : Bytes := be32 (v.extractLsb' 32 32) ++ be32 (v.extractLsb' 0 32)

/-- `fromBE` of a 2-byte string. -/
def fromBE16 (b1 b0 : Byte) : BitVec 16 := b1 ++ b0

/-- `fromBE` of a 4-byte string. -/
def fromBE32 (b3 b2 b1 b0 : Byte) : BitVec 32 := b3 ++ b2 ++ b1 ++ b0

/-! ### The integrity code (R110) -/

/-- One of the 8 shifts of R110. -/
def crcShift (c : BitVec 32) : BitVec 32 :=
  if c.getLsbD 0 then (c >>> 1) ^^^ 0xEDB88320#32 else c >>> 1

/-- The 8 shifts R110 makes for a byte. -/
def crcShift8 (c : BitVec 32) : BitVec 32 :=
  crcShift (crcShift (crcShift (crcShift (crcShift (crcShift (crcShift (crcShift c)))))))

/-- The body of R110's loop over the bytes. -/
def crcByte (c : BitVec 32) (b : Byte) : BitVec 32 := crcShift8 (c ^^^ b.zeroExtend 32)

/-- `CRC32(b)` (R110, D3; PRESUMED by the spec, assumption 18). Every other definition uses it by this name only. -/
def crc32 (b : Bytes) : BitVec 32 := b.foldl crcByte 0xFFFFFFFF#32 ^^^ 0xFFFFFFFF#32

/-! ### The wire frame (R80, R113, R115) -/

/-- The kind code (R81). -/
def kindCode : FrameKind → Byte
  | .data => 0x00
  | .ack => 0x01

/-- The kind a code spells (R81). -/
def kindOfCode (b : Byte) : Option FrameKind :=
  if b = 0x00 then some .data else if b = 0x01 then some .ack else none

/-- The part of the wire frame the checksum covers (R82). -/
def frameBody (f : Frame) : Bytes :=
  [f.seqNum] ++ [kindCode f.kind] ++ [f.senderId] ++ [f.receiverId] ++ f.payload

/-- `Encode(f)` (R113). -/
def encodeFrame (f : Frame) : Bytes := be32 (crc32 (frameBody f)) ++ frameBody f

/-- `fromBE(b[0..4))` for a byte string of at least 4 bytes (R112, R115). -/
def embeddedChecksum : Bytes → BitVec 32
  | b3 :: b2 :: b1 :: b0 :: _ => fromBE32 b3 b2 b1 b0
  | _ => 0

/-- `diag_seq` (R116): byte 4, or the sentinel 0 where there is none. -/
def diagSeq (b : Bytes) : Byte := if 5 ≤ b.length then b.getD 4 0 else 0

/-- `Decode(b)` (R115): the first check that fails decides. -/
def decodeFrame (b : Bytes) : DecodeResult :=
  if b.length < 6 then .corrupt .structural (diagSeq b)
  else if embeddedChecksum b ≠ crc32 (b.drop 4) then .corrupt .integrity (diagSeq b)
  else if b.length < 8 then .corrupt .structural (diagSeq b)
  else
    match kindOfCode (b.getD 5 0) with
    | none => .corrupt .structural (diagSeq b)
    | some k =>
      .valid { kind := k, seqNum := b.getD 4 0, senderId := b.getD 6 0, receiverId := b.getD 7 0,
               payload := b.drop 8 }

/-- The wire-frame row of the opcode table that a frame belongs to. -/
def instrOfFrame (f : Frame) : Instr :=
  match f.kind with
  | .data => .frameData f.seqNum f.senderId f.receiverId f.payload
  | .ack => .frameAck f.seqNum f.senderId f.receiverId f.payload

/-- The wire frame a byte string spells, as an instruction: `none` where `Decode` is corrupt (R115). -/
def decodeWire (b : Bytes) : Option Instr :=
  match decodeFrame b with
  | .valid f => some (instrOfFrame f)
  | .corrupt _ _ => none

/-! ### The opcode map (R94) and the selectors (R39) -/

/-- The opcode map, row by row (R94). -/
def opcodeMap : List (Byte × Opcode) :=
  [(0x01, .crc32), (0x02, .verify), (0x03, .encode), (0x04, .decode), (0x05, .isCorrupt),
   (0x10, .propagate), (0x11, .propagateBsc),
   (0x20, .submit), (0x21, .onAck), (0x22, .ackIn), (0x23, .isTimeout), (0x24, .retransmit),
   (0x30, .onFrame),
   (0x40, .tick), (0x41, .read), (0x42, .readBuf), (0x43, .readLog), (0xFF, .reset)]

/-- The command an opcode byte selects, if the map has it: the whole byte is matched (R85, R94). -/
def opcodeOf (b : Byte) : Option Opcode := (opcodeMap.find? (fun row => row.1 == b)).map (·.2)

/-- The opcode byte of a command (R94). -/
def opcodeByte : Opcode → Byte
  | .crc32 => 0x01
  | .verify => 0x02
  | .encode => 0x03
  | .decode => 0x04
  | .isCorrupt => 0x05
  | .propagate => 0x10
  | .propagateBsc => 0x11
  | .submit => 0x20
  | .onAck => 0x21
  | .ackIn => 0x22
  | .isTimeout => 0x23
  | .retransmit => 0x24
  | .onFrame => 0x30
  | .tick => 0x40
  | .read => 0x41
  | .readBuf => 0x42
  | .readLog => 0x43
  | .reset => 0xFF

/-- The format column of the opcode map (R94). -/
def opcodeFormat : Opcode → Format
  | .crc32 | .verify | .decode => .b
  | .encode => .f
  | .isCorrupt => .n
  | .propagate | .propagateBsc => .b
  | .submit | .ackIn => .b
  | .onAck => .s
  | .isTimeout | .retransmit => .n
  | .onFrame => .b
  | .tick => .t
  | .read => .r
  | .readBuf => .s
  | .readLog => .i
  | .reset => .n

/-- The selector codes, row by row (R39, R21). -/
def selectorMap : List (Byte × Selector) :=
  [(0x00, .base), (0x01, .nextSeq), (0x02, .outstanding), (0x03, .timerRunning), (0x04, .timerStart),
   (0x05, .now), (0x06, .expected), (0x07, .logLen), (0x08, .chState), (0x09, .txCount), (0x0A, .retxCount),
   (0x0B, .fault), (0x0C, .phase),
   (0x10, .windowSize), (0x11, .seqBits), (0x12, .maxSeq), (0x13, .timeout), (0x14, .channelMode),
   (0x15, .senderTag), (0x16, .receiverTag), (0x17, .maxPayload), (0x18, .logCapacity)]

/-- The register a selector byte names (R39). -/
def selectorOf (b : Byte) : Option Selector := (selectorMap.find? (fun row => row.1 == b)).map (·.2)

/-- The selector byte of a register (R39). -/
def selectorByte : Selector → Byte
  | .base => 0x00
  | .nextSeq => 0x01
  | .outstanding => 0x02
  | .timerRunning => 0x03
  | .timerStart => 0x04
  | .now => 0x05
  | .expected => 0x06
  | .logLen => 0x07
  | .chState => 0x08
  | .txCount => 0x09
  | .retxCount => 0x0A
  | .fault => 0x0B
  | .phase => 0x0C
  | .windowSize => 0x10
  | .seqBits => 0x11
  | .maxSeq => 0x12
  | .timeout => 0x13
  | .channelMode => 0x14
  | .senderTag => 0x15
  | .receiverTag => 0x16
  | .maxPayload => 0x17
  | .logCapacity => 0x18

/-! ### The command decoder: one parser per format (R86-R92), each over the bytes after the opcode -/

/-- Format N (R86): nothing follows the opcode. -/
def parseNone (i : Instr) : Bytes → Except DecodeError Instr
  | [] => .ok i
  | _ :: _ => .error .wrongLength

/-- Format S (R87): one byte. -/
def parseSeq : Bytes → Except DecodeError Byte
  | [q] => .ok q
  | _ => .error .wrongLength

/-- Format R (R88): one byte that names a register. -/
def parseSelector : Bytes → Except DecodeError Selector
  | [b] =>
    match selectorOf b with
    | some sel => .ok sel
    | none => .error .badSelector
  | _ => .error .wrongLength

/-- Format T (R89): a 32-bit time delta. -/
def parseDelta : Bytes → Except DecodeError (BitVec 32)
  | [b3, b2, b1, b0] => .ok (fromBE32 b3 b2 b1 b0)
  | _ => .error .wrongLength

/-- Format I (R90): a 16-bit log index. -/
def parseIndex : Bytes → Except DecodeError (BitVec 16)
  | [b1, b0] => .ok (fromBE16 b1 b0)
  | _ => .error .wrongLength

/-- Format F (R91): a frame record. -/
def parseFrame : Bytes → Except DecodeError Frame
  | k :: q :: sid :: rid :: l1 :: l0 :: p =>
    if p.length ≠ (fromBE16 l1 l0).toNat then .error .wrongLength
    else if maxFramePayload < p.length then .error .payloadTooLong
    else
      match kindOfCode k with
      | some kind => .ok { kind := kind, seqNum := q, payload := p, senderId := sid, receiverId := rid }
      | none => .error .badKind
  | _ => .error .wrongLength

/-- Format B (R92): a wire value. -/
def parseWire : Bytes → Except DecodeError Wire
  | pres :: l1 :: l0 :: d =>
    if d.length ≠ (fromBE16 l1 l0).toNat then .error .wrongLength
    else if pres = 0x01 then .ok (some d)
    else if pres = 0x00 ∧ d = [] then .ok none
    else .error .badPresence
  | _ => .error .wrongLength

/-- Format B for a command that needs bytes: `ABSENT` is illegal (R95, D39). -/
def parseBytes (rest : Bytes) : Except DecodeError Bytes :=
  match parseWire rest with
  | .ok (some d) => .ok d
  | .ok none => .error .absentOperand
  | .error e => .error e

/-- The operands of a command, read from the bytes after its opcode (R85). -/
def decodeOperands (op : Opcode) (rest : Bytes) : Except DecodeError Instr :=
  match op with
  | .crc32 => (parseBytes rest).map .crc32
  | .verify => (parseBytes rest).map .verify
  | .encode => (parseFrame rest).map .encode
  | .decode => (parseBytes rest).map .decode
  | .isCorrupt => parseNone .isCorrupt rest
  | .propagate => (parseWire rest).map .propagate
  | .propagateBsc => (parseWire rest).map .propagateBsc
  | .submit => (parseBytes rest).map .submit
  | .onAck => (parseSeq rest).map .onAck
  | .ackIn => (parseWire rest).map .ackIn
  | .isTimeout => parseNone .isTimeout rest
  | .retransmit => parseNone .retransmit rest
  | .onFrame => (parseWire rest).map .onFrame
  | .tick => (parseDelta rest).map .tick
  | .read => (parseSelector rest).map .read
  | .readBuf => (parseSeq rest).map .readBuf
  | .readLog => (parseIndex rest).map .readLog
  | .reset => parseNone .reset rest

/-- The command a byte string spells, or why it is illegal (R85, R95). -/
def decode : Bytes → Except DecodeError Instr
  | [] => .error .noOpcode
  | b :: rest =>
    match opcodeOf b with
    | none => .error (.unknownOpcode b)
    | some op => decodeOperands op rest

/-! ### The encoder -/

/-- `pres`, length and data of a wire value (R92, R96). -/
def wireBytes : Wire → Bytes
  | none => 0x00 :: be16 0
  | some d => 0x01 :: (be16 (BitVec.ofNat 16 d.length) ++ d)

/-- A frame record (R91, R96). -/
def frameRecordBytes (f : Frame) : Bytes :=
  [kindCode f.kind, f.seqNum, f.senderId, f.receiverId] ++ be16 (BitVec.ofNat 16 f.payload.length) ++ f.payload

/-- The bytes of an instruction: a command as the host writes it (R86-R94), a wire frame as it stands on the wire
(R113). -/
def encode : Instr → Bytes
  | .crc32 b => opcodeByte .crc32 :: wireBytes (some b)
  | .verify b => opcodeByte .verify :: wireBytes (some b)
  | .encode f => opcodeByte .encode :: frameRecordBytes f
  | .decode b => opcodeByte .decode :: wireBytes (some b)
  | .isCorrupt => [opcodeByte .isCorrupt]
  | .propagate w => opcodeByte .propagate :: wireBytes w
  | .propagateBsc w => opcodeByte .propagateBsc :: wireBytes w
  | .submit p => opcodeByte .submit :: wireBytes (some p)
  | .onAck a => [opcodeByte .onAck, a]
  | .ackIn w => opcodeByte .ackIn :: wireBytes w
  | .isTimeout => [opcodeByte .isTimeout]
  | .retransmit => [opcodeByte .retransmit]
  | .onFrame w => opcodeByte .onFrame :: wireBytes w
  | .tick d => opcodeByte .tick :: be32 d
  | .read sel => [opcodeByte .read, selectorByte sel]
  | .readBuf q => [opcodeByte .readBuf, q]
  | .readLog i => opcodeByte .readLog :: be16 i
  | .reset => [opcodeByte .reset]
  | .frameData q sid rid p =>
    encodeFrame { kind := .data, seqNum := q, payload := p, senderId := sid, receiverId := rid }
  | .frameAck q sid rid p =>
    encodeFrame { kind := .ack, seqNum := q, payload := p, senderId := sid, receiverId := rid }

/-! ### Lengths (R99) and the opcode table's numbering of bits -/

/-- How long a command is, from its format and, for B and F, the length field found in its bytes (R99). Bytes that are
not there count as 0. -/
def formatLength (fmt : Format) (cmd : Bytes) : Nat :=
  match fmt with
  | .n => 1
  | .s => 2
  | .r => 2
  | .t => 5
  | .i => 3
  | .b => 4 + (fromBE16 (cmd.getD 2 0) (cmd.getD 3 0)).toNat
  | .f => 7 + (fromBE16 (cmd.getD 5 0) (cmd.getD 6 0)).toNat

/-- How long the command that begins with these bytes is (R99); the bytes themselves where byte 0 is no opcode. -/
def commandLength (cmd : Bytes) : Nat :=
  match opcodeOf (cmd.getD 0 0) with
  | some op => formatLength (opcodeFormat op) cmd
  | none => cmd.length

/-- The `n` bytes of a word numbered as the opcode table numbers it: bits 7..0 are byte 0, bits 15..8 byte 1. -/
def bytesOfWord : Nat → Nat → Bytes
  | 0, _ => []
  | n + 1, w => BitVec.ofNat 8 w :: bytesOfWord n (w / 256)

/-- The command whose first `nbits` bits are `w` and whose later bits are 0, as the host writes it: the bytes of `w`,
then zero bytes up to the command's length. -/
def tableCommand (nbits w : Nat) : Bytes :=
  let given := bytesOfWord (nbits / 8) w
  given ++ List.replicate (commandLength given - given.length) 0

/-- What the command decoder reads from the table's word (`none` where it refuses). -/
def decodeTableWord (nbits w : Nat) : Option Instr := (decode (tableCommand nbits w)).toOption

end Sys2Proof
end

