-- ==== Sys2Proof/Machine/Operands.lean ====
section
/-! DEFINITION. Sequence arithmetic (R11), derived quantities (R36, R37), the legality and the fields of the
configuration (R21, R22), the values `READ` returns (R39), and the bytes of a response (R96, R250). -/

namespace Sys2Proof.Machine

/-! ### The configuration (R21, R22, R140) -/

/-- MAX_SEQ, hardwired to `2^SEQ_BITS` (R21). -/
def maxSeq (c : Cfg) : Nat := 2 ^ c.seqBits.toNat

/-- The strategy CHANNEL_MODE names (R140); codes 5 to 7 name none. -/
def channelMode (c : Cfg) : Option ChannelMode :=
  if c.modeCode = 0 then some .ideal
  else if c.modeCode = 1 then some .ge
  else if c.modeCode = 2 then some .bsc
  else if c.modeCode = 3 then some .lossGe
  else if c.modeCode = 4 then some .lossBsc
  else none

/-- A probability is in `[0,1]`. -/
def probLegal (p : Prob) : Bool := decide (0 ≤ p ∧ p ≤ 1)

/-- The record is legal (R22). -/
def cfgLegal (c : Cfg) : Bool :=
  decide (1 ≤ c.seqBits.toNat ∧ c.seqBits.toNat ≤ 8) &&
  decide (1 ≤ c.windowSize.toNat ∧ c.windowSize.toNat < maxSeq c) &&
  decide (c.modeCode.toNat ≤ 4) &&
  decide (c.maxPayload.toNat ≤ maxFramePayload) &&
  (probLegal c.probP && probLegal c.probR && probLegal c.probK && probLegal c.probH && probLegal c.bscP &&
    probLegal c.probLoss)

/-! ### Sequence numbers (R11, R36) -/

/-- `(a - b) mod M`, the mathematical modulus (R11). -/
def seqDist (M : Nat) (a b : Byte) : Nat := (((a.toNat : Int) - (b.toNat : Int)) % (M : Int)).toNat

/-- `(s + 1) mod M`. -/
def seqNext (M : Nat) (q : Byte) : Byte := BitVec.ofNat 8 ((q.toNat + 1) % M)

/-- `outstanding` (R36). -/
def outstanding (s : State) : Nat := seqDist (maxSeq s.cfg) s.nextSeq s.base

/-- `in_window(q)` (R36). -/
def inWindow (s : State) (q : Byte) : Bool := decide (seqDist (maxSeq s.cfg) q s.base < s.cfg.windowSize.toNat)

/-- `window_empty` (R36). -/
def windowEmpty (s : State) : Bool := s.base == s.nextSeq

/-- The sender's phase (R37). -/
def phase (s : State) : Phase :=
  if s.timerRunning then .armed else if windowEmpty s then .idle else .expired

/-- `Expired` (R180); "exceeds" is strict. -/
def timerExpired (s : State) : Bool := s.timerRunning && decide (s.cfg.timeout < s.now - s.timerStart)

/-! ### What `READ` returns (R39) -/

/-- The code of `ch_state` (R31). -/
def chStateCode : ChState → Nat
  | .good => 0
  | .bad => 1

/-- The code of the phase (R37). -/
def phaseCode : Phase → Nat
  | .idle => 0
  | .armed => 1
  | .expired => 2

/-- A register's value zero-extended to 64 bits; a free value where it does not fit (assumption 11). -/
def zext64 (sel : Selector) (v : Nat) : BitVec 64 := if v < 2 ^ 64 then BitVec.ofNat 64 v else Config.wideRead sel v

/-- The 9-bit MAX_SEQ field (R21); a free value where `2^SEQ_BITS` is over 256 (assumption 12). -/
def maxSeqField (c : Cfg) : BitVec 9 :=
  if c.seqBits.toNat ≤ 8 then BitVec.ofNat 9 (maxSeq c) else Config.wideMaxSeq c.seqBits

/-- The value of the register a selector names (R39, R21, R233). -/
def readValue (s : State) (sel : Selector) : BitVec 64 :=
  match sel with
  | .base => s.base.zeroExtend 64
  | .nextSeq => s.nextSeq.zeroExtend 64
  | .outstanding => zext64 .outstanding (outstanding s)
  | .timerRunning => (BitVec.ofBool s.timerRunning).zeroExtend 64
  | .timerStart => zext64 .timerStart s.timerStart
  | .now => zext64 .now s.now
  | .expected => s.expected.zeroExtend 64
  | .logLen => zext64 .logLen s.log.length
  | .chState => zext64 .chState (chStateCode s.chState)
  | .txCount => zext64 .txCount s.txCount
  | .retxCount => zext64 .retxCount s.retxCount
  | .fault => s.fault.zeroExtend 64
  | .phase => zext64 .phase (phaseCode (phase s))
  | .windowSize => s.cfg.windowSize.zeroExtend 64
  | .seqBits => s.cfg.seqBits.zeroExtend 64
  | .maxSeq => (maxSeqField s.cfg).zeroExtend 64
  | .timeout => zext64 .timeout s.cfg.timeout
  | .channelMode => s.cfg.modeCode.zeroExtend 64
  | .senderTag => s.cfg.senderTag.zeroExtend 64
  | .receiverTag => s.cfg.receiverTag.zeroExtend 64
  | .maxPayload => s.cfg.maxPayload.zeroExtend 64
  | .logCapacity =>
    match s.cfg.logCapacity with
    | some n => zext64 .logCapacity n
    | none => BitVec.allOnes 64

/-! ### Responses (R96, R250, R252) -/

/-- The status byte (R250). -/
def statusCode : Status → Byte
  | .ok => 0x00
  | .windowFull => 0x01
  | .payloadTooLong => 0x02
  | .ackDuplicate => 0x03
  | .ackStale => 0x04
  | .ackOutOfRange => 0x05
  | .nothingArrived => 0x06
  | .corruptStructural => 0x07
  | .corruptIntegrity => 0x08
  | .outOfOrder => 0x09
  | .notAck => 0x0A
  | .noEntry => 0x0B
  | .halted => 0xE0
  | .fault => 0xEF

/-- The status that reports a corrupt decode result (R118, R178, R210). -/
def corruptStatus : ErrClass → Status
  | .structural => .corruptStructural
  | .integrity => .corruptIntegrity

/-- The `err_class` byte of a corrupt result (R252). -/
def errClassCode : ErrClass → Byte
  | .structural => 1
  | .integrity => 2

/-- The status of `DECODE` (R118). -/
def decodeStatus : DecodeResult → Status
  | .corrupt cls _ => corruptStatus cls
  | .valid _ => .ok

/-- The outputs of `DECODE`: `valid`, `err_class`, `diag_seq`, and the frame record when valid (R118). -/
def decodeOutputs : DecodeResult → List Output
  | .corrupt cls d => [.flag false, .byte (errClassCode cls), .byte d]
  | .valid f => [.flag true, .byte 0, .byte f.seqNum, .frame f]

/-- The bytes of one output (R96). -/
def outputBytes : Output → Bytes
  | .flag v => [if v then 0x01 else 0x00]
  | .byte v => [v]
  | .word32 v => be32 v
  | .word64 v => be64 v
  | .wire w => wireBytes w
  | .wires ws => be16 (BitVec.ofNat 16 ws.length) ++ (ws.map wireBytes).flatten
  | .frame f => frameRecordBytes f

/-- The bytes of a response: `status ‖ outputs` (R96). -/
def responseBytes (r : Response) : Bytes := statusCode r.status :: (r.outputs.map outputBytes).flatten

end Sys2Proof.Machine
end

