-- ==== Sys2Proof/Machine/Ops.lean ====
section
/-! DEFINITION. The named operations the meanings are written in (R13): responding, raising a fault, the guard every
command passes (R257), the buffer and log primitives (R63, R64), the timer (R27), the frames the block builds (R171,
R211) and the reset sequence (R280). The block takes no traps (R253): `raiseFault` is all that an exception is here. -/

namespace Sys2Proof.Machine

/-! ### Ending a command -/

/-- `respond(status, outputs...)` (R13, R96). -/
def respond (st : Status) (outs : List Output) (s : State) : State :=
  { s with responses := s.responses ++ [{ status := st, outputs := outs }] }

/-- `raise Fault(F)` (R13, R256): set the bit, answer FAULT with no outputs, leave every other register. -/
def raiseFault (bit : BitVec 8) (s : State) : State := respond .fault [] (setFault bit s)

/-- What every command but `READ` and `RESET` first passes: a halted block answers HALTED and changes nothing (R257).
Otherwise the command runs, under a legal configuration (R281; assumption 16). -/
def guarded (s : State) (run : State) : Host.Outcome State Fault Refusal :=
  if halted s then .next (respond .halted [] s)
  else if cfgLegal s.cfg then .next run
  else .fault .illegalConfigurationRunning

/-- Opcodes that are not subject to the halted check: `READ` and `RESET` (R255, R257; assumption 15). -/
def skipsHaltedCheck : Bytes → Bool
  | [] => false
  | b :: _ => b == opcodeByte .read || b == opcodeByte .reset

/-- A byte string that is no legal command (R85, R95, R255): HALTED where the halted check comes first, else
F_ILLEGAL_COMMAND and nothing else. -/
def rejectCommand (cmd : Bytes) (s : State) : Host.Outcome State Fault Refusal :=
  if halted s && !skipsHaltedCheck cmd then .next (respond .halted [] s)
  else .next (raiseFault fIllegalCommand s)

/-! ### The command port (R5) -/

/-- Put a command where the block takes its next one. -/
def putCommand (cmd : Bytes) (s : State) : State := { s with commands := cmd :: s.commands }

/-- The state once the block has taken the oldest pending command. -/
def dropCommand (s : State) : State := { s with commands := s.commands.tail }

/-! ### The retransmission buffer (R63) -/

/-- The buffer is in its one canonical form: the sequence numbers rise strictly. -/
def Buf.wf : Buf → Bool
  | [] => true
  | [_] => true
  | (q, _) :: (q', f') :: rest => decide (q < q') && Buf.wf ((q', f') :: rest)

/-- `BufRead(s)`. -/
def bufRead (q : Nat) : Buf → Option Frame
  | [] => none
  | (q', f) :: rest => if q' = q then some f else bufRead q rest

/-- `BufWrite(s, f)`. -/
def bufWrite (q : Nat) (f : Frame) : Buf → Buf
  | [] => [(q, f)]
  | (q', f') :: rest =>
    if q < q' then (q, f) :: (q', f') :: rest
    else if q = q' then (q, f) :: rest
    else (q', f') :: bufWrite q f rest

/-- `BufDel(s)`; a no-op where the slot is empty. -/
def bufDel (q : Nat) : Buf → Buf
  | [] => []
  | (q', f') :: rest => if q' = q then rest else (q', f') :: bufDel q rest

/-! ### The delivered-payload log (R64) -/

/-- `LogAppend(p)`. -/
def logAppend (p : Bytes) (s : State) : State := { s with log := s.log ++ [p] }

/-- The log holds LOG_CAPACITY entries (R210). -/
def logFull (s : State) : Bool := s.cfg.logCapacity == some s.log.length

/-! ### The timer (R27) -/

/-- Start or restart. -/
def startTimer (s : State) : State := { s with timerRunning := true, timerStart := s.now }

/-- Stop or clear: `timer_start` keeps its value. -/
def stopTimer (s : State) : State := { s with timerRunning := false }

/-! ### The frames the block builds -/

/-- `MakeData(s, p)` (R171). -/
def makeData (c : Cfg) (q : Byte) (p : Bytes) : Frame :=
  { kind := .data, seqNum := q, payload := p, senderId := c.senderTag, receiverId := c.receiverTag }

/-- `MakeAck(e)` (R211). -/
def makeAck (c : Cfg) (e : Byte) : Frame :=
  { kind := .ack, seqNum := e, payload := [], senderId := c.receiverTag, receiverId := c.senderTag }

/-! ### Reset (R280) -/

/-- Steps 1 and 2 of the reset sequence: the configuration port is sampled and every register takes its value of R40.
The ports themselves are the host's and keep what they hold. -/
def resetRegisters (s : State) : State :=
  { s with
    cfg := s.cfgPort, base := 0, nextSeq := 0, buf := [], timerRunning := false, timerStart := 0, txCount := 0,
    retxCount := 0, expected := 0, log := [], chState := .good, dr := none, now := 0, fault := 0 }

end Sys2Proof.Machine
end

