-- ==== Sys2Proof/Machine/Channel.lean ====
section
/-! DEFINITION. The Channel Model (41_channel.md): draws (R141), bit visits (R142), the strategies (R143-R148), and
PROPAGATE and PROPAGATE_BSC. A strategy reads and writes the channel state and the entropy port only (R151), so it is a
function of those; `sendThrough` writes them back. -/

namespace Sys2Proof.Machine

/-! ### Draws (R141) -/

/-- The draw is free: neither forced false (`p = 0`) nor forced true (`p = 1`). -/
def drawIsFree (p : Prob) : Bool := p != 0 && p != 1

/-- The result of the next draw with label `p` (R141): forced, or the host's next answer, or a free value where the
host supplied none (assumption 5). -/
def drawResult (p : Prob) (e : Entropy) : Bool :=
  if p = 0 then false
  else if p = 1 then true
  else
    match e.answers with
    | a :: _ => a
    | [] => Config.freeDraw e.drawn.length

/-- The entropy port after that draw. A forced draw takes no answer (assumption 5). -/
def drawNext (p : Prob) (e : Entropy) : Entropy :=
  { answers := if drawIsFree p then e.answers.tail else e.answers, drawn := (p, drawResult p e) :: e.drawn }

/-! ### Bits (R142) -/

/-- The bit visits of a byte string, in order. -/
def bitVisits (b : Bytes) : List Nat := List.range (8 * b.length)

/-- `flip(b, k)`: bit `7 - (k mod 8)` of byte `k div 8` inverted. -/
def flipBit (b : Bytes) (k : Nat) : Bytes := b.modify (k / 8) (fun x => x ^^^ (1#8 <<< (7 - k % 8)))

/-! ### Strategies -/

/-- What a propagation leaves: the wire value on the far side, the channel state and the entropy port. -/
structure Crossing where
  wire    : Wire
  chState : ChState
  entropy : Entropy
deriving DecidableEq, Repr

/-- The label of the transition draw in a state (R144). -/
def transitionProb (c : Cfg) : ChState → Prob
  | .good => c.probP
  | .bad => c.probR

/-- The label of the error draw in a state (R145). -/
def errorProb (c : Cfg) : ChState → Prob
  | .good => c.probK
  | .bad => c.probH

/-- The other state. -/
def otherState : ChState → ChState
  | .good => .bad
  | .bad => .good

/-- The state `GeStep()` leaves (R144); its one draw is `drawNext (transitionProb c ch)`. -/
def geStep (c : Cfg) (ch : ChState) (e : Entropy) : ChState :=
  if drawResult (transitionProb c ch) e then otherState ch else ch

/-- The bit loop of `Ge` (R145) over the visits still to make: transition first, then the error draw in the state the
transition left. -/
def geBits (c : Cfg) : List Nat → Bytes → ChState → Entropy → Bytes × ChState × Entropy
  | [], out, ch, e => (out, ch, e)
  | k :: ks, out, ch, e =>
    let ch' := geStep c ch e
    let e' := drawNext (transitionProb c ch) e
    let out' := if drawResult (errorProb c ch') e' then flipBit out k else out
    geBits c ks out' ch' (drawNext (errorProb c ch') e')

/-- `Ge(w)` of a non-empty byte string (R145). -/
def geBytes (c : Cfg) (b : Bytes) (ch : ChState) (e : Entropy) : Crossing :=
  let r := geBits c (bitVisits b) b ch e
  { wire := some r.1, chState := r.2.1, entropy := r.2.2 }

/-- The bit loop of `Bsc` (R146) over the visits still to make. -/
def bscBits (p : Prob) : List Nat → Bytes → Entropy → Bytes × Entropy
  | [], out, e => (out, e)
  | k :: ks, out, e => bscBits p ks (if drawResult p e then flipBit out k else out) (drawNext p e)

/-- `Bsc(w, p)` of a non-empty byte string (R146): `ch_state` is neither read nor written. -/
def bscBytes (p : Prob) (b : Bytes) (ch : ChState) (e : Entropy) : Crossing :=
  let r := bscBits p (bitVisits b) b e
  { wire := some r.1, chState := ch, entropy := r.2 }

/-- The empty-input rule of R145, R146 and R147 in front of a strategy on non-empty byte strings: `ABSENT` and `EMPTY`
come out `ABSENT`, with no draw and no state change. -/
def onArrived (w : Wire) (ch : ChState) (e : Entropy) (run : Bytes → Crossing) : Crossing :=
  match w with
  | none => { wire := none, chState := ch, entropy := e }
  | some [] => { wire := none, chState := ch, entropy := e }
  | some (x :: xs) => run (x :: xs)

/-- `Ge(w)` (R145). -/
def ge (c : Cfg) (w : Wire) (ch : ChState) (e : Entropy) : Crossing :=
  onArrived w ch e (fun b => geBytes c b ch e)

/-- `Bsc(w, p)` (R146). -/
def bsc (p : Prob) (w : Wire) (ch : ChState) (e : Entropy) : Crossing :=
  onArrived w ch e (fun b => bscBytes p b ch e)

/-- `Loss(w, inner)` (R147): one draw decides whether the whole frame is lost; a lost frame never reaches the inner
strategy. -/
def loss (p : Prob) (w : Wire) (ch : ChState) (e : Entropy) (inner : Bytes → ChState → Entropy → Crossing) :
    Crossing :=
  onArrived w ch e (fun b =>
    if drawResult p e then { wire := none, chState := ch, entropy := drawNext p e } else inner b ch (drawNext p e))

/-- `Propagate(w)` (R148). A CHANNEL_MODE that names no strategy is illegal (R22) and never reaches this (R281). -/
def propagate (c : Cfg) (w : Wire) (ch : ChState) (e : Entropy) : Crossing :=
  match channelMode c with
  | some .ideal => { wire := w, chState := ch, entropy := e }
  | some .ge => ge c w ch e
  | some .bsc => bsc c.bscP w ch e
  | some .lossGe => loss c.probLoss w ch e (geBytes c)
  | some .lossBsc => loss c.probLoss w ch e (bscBytes c.bscP)
  | none => { wire := w, chState := ch, entropy := e }

/-! ### The channel in the block's state -/

/-- `Propagate(w)` from the block's state. -/
def crossing (w : Wire) (s : State) : Crossing := propagate s.cfg w s.chState s.entropy

/-- The block's state after a crossing. -/
def afterCrossing (x : Crossing) (s : State) : State := { s with chState := x.chState, entropy := x.entropy }

/-- `PROPAGATE` (R149). -/
def execPropagate (w : Wire) (s : State) : Host.Outcome State Fault Refusal :=
  guarded s (respond .ok [.wire (crossing w s).wire] (afterCrossing (crossing w s) s))

/-- `PROPAGATE_BSC` (R150): `Bsc(w, BSC_P)` whatever CHANNEL_MODE is. -/
def execPropagateBsc (w : Wire) (s : State) : Host.Outcome State Fault Refusal :=
  let x := bsc s.cfg.bscP w s.chState s.entropy
  guarded s (respond .ok [.wire x.wire] (afterCrossing x s))

end Sys2Proof.Machine
end

