-- ==== Sys2Proof/Machine/Codec.lean ====
section
/-! DEFINITION. The Frame Codec and integrity verifier: CRC32, VERIFY, ENCODE, DECODE, IS_CORRUPT (40_codec.md). The
pure cores `CRC32`, `Encode` and `Decode` are in Decode.lean. -/

namespace Sys2Proof.Machine

/-- `CRC32` (R111). -/
def execCrc32 (b : Bytes) (s : State) : Host.Outcome State Fault Refusal :=
  guarded s (respond .ok [.word32 (crc32 b)] s)

/-- The outputs of `VERIFY`: `match`, `embedded`, `computed` (R112). -/
def verifyOutputs (b : Bytes) : List Output :=
  if b.length < 4 then [.flag false, .word32 0, .word32 (crc32 [])]
  else
    [.flag (embeddedChecksum b == crc32 (b.drop 4)), .word32 (embeddedChecksum b), .word32 (crc32 (b.drop 4))]

/-- `VERIFY` (R112). -/
def execVerify (b : Bytes) (s : State) : Host.Outcome State Fault Refusal :=
  guarded s (respond .ok (verifyOutputs b) s)

/-- `ENCODE` (R114). -/
def execEncode (f : Frame) (s : State) : Host.Outcome State Fault Refusal :=
  guarded s (respond .ok [.wire (some (encodeFrame f))] s)

/-- Report a decode result: the status and outputs of R118. -/
def reportDecode (r : DecodeResult) (s : State) : State := respond (decodeStatus r) (decodeOutputs r) s

/-- `DECODE` (R118): the one command but `RESET` that writes `DR`. -/
def execDecode (b : Bytes) (s : State) : Host.Outcome State Fault Refusal :=
  guarded s (reportDecode (decodeFrame b) { s with dr := some (decodeFrame b) })

/-- What `IS_CORRUPT` does with `DR` (R119). -/
def isCorruptOf (s : State) : State :=
  match s.dr with
  | none => raiseFault fNoDecodeResult s
  | some (.corrupt _ _) => respond .ok [.flag true] s
  | some (.valid _) => respond .ok [.flag false] s

/-- `IS_CORRUPT` (R119). -/
def execIsCorrupt (s : State) : Host.Outcome State Fault Refusal := guarded s (isCorruptOf s)

end Sys2Proof.Machine
end

