-- ==== Sys2Proof/Machine/Control.lean ====
section
/-! DEFINITION. Block control (44_control.md): RESET, TICK, READ, READ_BUF, READ_LOG. -/

namespace Sys2Proof.Machine

/-- `TICK` (R231): no timer is checked. -/
def execTick (d : BitVec 32) (s : State) : Host.Outcome State Fault Refusal :=
  guarded s (respond .ok [] { s with now := s.now + d.toNat })

/-- `READ` (R233): accepted while halted (R257). -/
def execRead (sel : Selector) (s : State) : Host.Outcome State Fault Refusal :=
  .next (respond .ok [.word64 (readValue s sel)] s)

/-- What `READ_BUF` answers (R234). -/
def slotAnswer (q : Byte) (s : State) : State :=
  match bufRead q.toNat s.buf with
  | none => respond .noEntry [] s
  | some f => if maxSeq s.cfg ≤ q.toNat then respond .noEntry [] s else respond .ok [.frame f] s

/-- `READ_BUF` (R234). -/
def execReadBuf (q : Byte) (s : State) : Host.Outcome State Fault Refusal := guarded s (slotAnswer q s)

/-- What `READ_LOG` answers (R235). -/
def entryAnswer (i : BitVec 16) (s : State) : State :=
  match s.log[i.toNat]? with
  | none => respond .noEntry [] s
  | some p => respond .ok [.wire (some p)] s

/-- `READ_LOG` (R235). -/
def execReadLog (i : BitVec 16) (s : State) : Host.Outcome State Fault Refusal := guarded s (entryAnswer i s)

/-- `RESET` (R230, R280): accepted while halted; an illegal configuration sets F_CONFIG_INVALID. -/
def execReset (s : State) : Host.Outcome State Fault Refusal :=
  .next (if cfgLegal s.cfgPort then respond .ok [] (resetRegisters s) else raiseFault fConfigInvalid (resetRegisters s))

end Sys2Proof.Machine
end

