-- ==== Sys2Proof/Machine/Receiver.lean ====
section
/-! DEFINITION. The Receiver (43_receiver.md): ON_FRAME. -/

namespace Sys2Proof.Machine

/-- Send the ACK for `expected` through the channel and answer with it (R210-R212). -/
def answerAck (st : Status) (s : State) : State :=
  let x := crossing (some (encodeFrame (makeAck s.cfg s.expected))) s
  respond st [.wire x.wire] (afterCrossing x s)

/-- Accept a payload: append it and advance `expected` (R210). -/
def acceptPayload (p : Bytes) (s : State) : State :=
  { logAppend p s with expected := seqNext (maxSeq s.cfg) s.expected }

/-- A valid frame at the Receiver (R210): accepted if it is the DATA frame numbered `expected`, else re-ACKed. -/
def frameReceived (f : Frame) (s : State) : State :=
  if f.kind = .data ∧ f.seqNum = s.expected then
    if logFull s then raiseFault fLogFull s else answerAck .ok (acceptPayload f.payload s)
  else answerAck .outOfOrder s

/-- `ON_FRAME` past the guard (R210); `DR` is not written. -/
def frameArrived (w : Wire) (s : State) : State :=
  match w with
  | none => respond .nothingArrived [.wire none] s
  | some [] => respond .nothingArrived [.wire none] s
  | some (x :: xs) =>
    match decodeFrame (x :: xs) with
    | .corrupt cls _ => answerAck (corruptStatus cls) s
    | .valid f => frameReceived f s

/-- `ON_FRAME` (R210). -/
def execOnFrame (w : Wire) (s : State) : Host.Outcome State Fault Refusal := guarded s (frameArrived w s)

end Sys2Proof.Machine
end

