-- ==== Sys2Proof/Machine/Sender.lean ====
section
/-! DEFINITION. The Sender (42_sender.md): SUBMIT, ON_ACK, ACK_IN, IS_TIMEOUT, RETRANSMIT. -/

namespace Sys2Proof.Machine

/-! ### Admission (R170) -/

/-- The register writes of an accepted `SUBMIT`, before the frame is sent: the frame is buffered at `next_seq`,
`next_seq` advances, the frame is counted, and the timer starts if the window was empty (R170). -/
def admitFrame (p : Bytes) (s : State) : State :=
  let s' := { s with
    buf := bufWrite s.nextSeq.toNat (makeData s.cfg s.nextSeq p) s.buf
    nextSeq := seqNext (maxSeq s.cfg) s.nextSeq
    txCount := s.txCount + 1 }
  if windowEmpty s then startTimer s' else s'

/-- An accepted `SUBMIT` (R170, R172). -/
def submitAccepted (p : Bytes) (s : State) : State :=
  let x := crossing (some (encodeFrame (makeData s.cfg s.nextSeq p))) (admitFrame p s)
  respond .ok [.byte s.nextSeq, .wire x.wire] (afterCrossing x (admitFrame p s))

/-- `SUBMIT` past the guard: the checks in R170's order. -/
def submit (p : Bytes) (s : State) : State :=
  if s.cfg.maxPayload.toNat < p.length then respond .payloadTooLong [] s
  else if !inWindow s s.nextSeq then respond .windowFull [] s
  else submitAccepted p s

/-- `SUBMIT` (R170). -/
def execSubmit (p : Bytes) (s : State) : Host.Outcome State Fault Refusal := guarded s (submit p s)

/-! ### Acknowledgment (R173-R178) -/

/-- The loop of `Advance(a)` (R175), with fuel (assumption 19): empty the slot of `base` and step `base` until it is
`a`. -/
def advanceLoop (M : Nat) (a : Byte) : Nat → Byte → Buf → Byte × Buf
  | 0, b, buf => (b, buf)
  | n + 1, b, buf => if b = a then (b, buf) else advanceLoop M a n (seqNext M b) (bufDel b.toNat buf)

/-- `Advance(a)` (R175): the timer stops if the window is now empty, else it restarts. -/
def advance (a : Byte) (s : State) : State :=
  let r := advanceLoop (maxSeq s.cfg) a (maxSeq s.cfg) s.base s.buf
  let s' := { s with base := r.1, buf := r.2 }
  if windowEmpty s' then stopTimer s' else startTimer s'

/-- `ON_ACK` past the guard: the classes of R173 in their order (R174, R176, R177). -/
def ackReceived (a : Byte) (s : State) : State :=
  let M := maxSeq s.cfg
  let d := seqDist M a s.base
  if M ≤ a.toNat then respond .ackOutOfRange [] s
  else if d = 0 then respond .ackDuplicate [] s
  else if M / 2 < d then respond .ackStale [] s
  else if outstanding s < d then raiseFault fAckBeyondNext (advance a s)
  else respond .ok [.byte (BitVec.ofNat 8 d)] (advance a s)

/-- `ON_ACK` (R174). -/
def execOnAck (a : Byte) (s : State) : Host.Outcome State Fault Refusal := guarded s (ackReceived a s)

/-- `ACK_IN` past the guard (R178): absent, corrupt and DATA are dropped; `DR` is not written. -/
def ackArrived (w : Wire) (s : State) : State :=
  match w with
  | none => respond .nothingArrived [] s
  | some [] => respond .nothingArrived [] s
  | some (x :: xs) =>
    match decodeFrame (x :: xs) with
    | .corrupt cls _ => respond (corruptStatus cls) [] s
    | .valid f => if f.kind = .ack then ackReceived f.seqNum s else respond .notAck [] s

/-- `ACK_IN` (R178). -/
def execAckIn (w : Wire) (s : State) : Host.Outcome State Fault Refusal := guarded s (ackArrived w s)

/-! ### Timer (R180, R185) -/

/-- `IS_TIMEOUT` past the guard: it self-disarms when it fires (R185). -/
def checkTimeout (s : State) : State :=
  if timerExpired s then respond .ok [.flag true] (stopTimer s) else respond .ok [.flag false] s

/-- `IS_TIMEOUT` (R185). -/
def execIsTimeout (s : State) : Host.Outcome State Fault Refusal := guarded s (checkTimeout s)

/-! ### Retransmission (R188) -/

/-- Send one buffered frame again: count it and pass its encoding through the channel (R188). -/
def resend (f : Frame) (s : State) : Wire × State :=
  let x := crossing (some (encodeFrame f)) s
  (x.wire, afterCrossing x { s with retxCount := s.retxCount + 1 })

/-- The loop of `RETRANSMIT` (R188), with fuel (assumption 19): from `q` up to `next_seq`, every buffered frame. -/
def resendLoop : Nat → Byte → State → List Wire × State
  | 0, _, s => ([], s)
  | n + 1, q, s =>
    if q = s.nextSeq then ([], s)
    else
      match bufRead q.toNat s.buf with
      | none => resendLoop n (seqNext (maxSeq s.cfg) q) s
      | some f =>
        let r := resendLoop n (seqNext (maxSeq s.cfg) q) (resend f s).2
        ((resend f s).1 :: r.1, r.2)

/-- `RETRANSMIT` past the guard: the window is sent again from `base`, and the timer restarts once if the window is not
empty (R188). -/
def resendWindow (s : State) : State :=
  let r := resendLoop (maxSeq s.cfg) s.base s
  respond .ok [.wires r.1] (if windowEmpty s then r.2 else startTimer r.2)

/-- `RETRANSMIT` (R188). -/
def execRetransmit (s : State) : Host.Outcome State Fault Refusal := guarded s (resendWindow s)

end Sys2Proof.Machine
end

