-- ==== Sys2Proof/Machine/WireFrame.lean ====
section
/-! DEFINITION. The two wire-frame rows of the opcode table. A wire frame is no command: it reaches the block inside an
operand. Taken by itself it has the meaning its row names, the pure `Decode` of R115, here of the frame's own bytes: the
result is reported as `DECODE` reports one, and no register changes, `DR` included (DESIGN CHOICE, assumption 14). -/

namespace Sys2Proof.Machine

/-- A wire frame of kind DATA (R80, R115). -/
def execFrameData (q sid rid : Byte) (p : Bytes) (s : State) : Host.Outcome State Fault Refusal :=
  guarded s (reportDecode (decodeFrame (encode (.frameData q sid rid p))) s)

/-- A wire frame of kind ACK (R80, R115). -/
def execFrameAck (q sid rid : Byte) (p : Bytes) (s : State) : Host.Outcome State Fault Refusal :=
  guarded s (reportDecode (decodeFrame (encode (.frameAck q sid rid p))) s)

end Sys2Proof.Machine
end

