-- ==== Sys2Proof/Machine/Dispatch.lean ====
section
/-! DEFINITION. One arm per instruction, in the opcode table's order. -/

namespace Sys2Proof.Machine

/-- What an instruction does. -/
def exec (i : Instr) (s : State) : Host.Outcome State Fault Refusal :=
  match i with
  | .crc32 b => Sys2Proof.Machine.execCrc32 b s
  | .verify b => Sys2Proof.Machine.execVerify b s
  | .encode f => Sys2Proof.Machine.execEncode f s
  | .decode b => Sys2Proof.Machine.execDecode b s
  | .isCorrupt => Sys2Proof.Machine.execIsCorrupt s
  | .propagate w => Sys2Proof.Machine.execPropagate w s
  | .propagateBsc w => Sys2Proof.Machine.execPropagateBsc w s
  | .submit p => Sys2Proof.Machine.execSubmit p s
  | .onAck a => Sys2Proof.Machine.execOnAck a s
  | .ackIn w => Sys2Proof.Machine.execAckIn w s
  | .isTimeout => Sys2Proof.Machine.execIsTimeout s
  | .retransmit => Sys2Proof.Machine.execRetransmit s
  | .onFrame w => Sys2Proof.Machine.execOnFrame w s
  | .tick d => Sys2Proof.Machine.execTick d s
  | .read sel => Sys2Proof.Machine.execRead sel s
  | .readBuf q => Sys2Proof.Machine.execReadBuf q s
  | .readLog n => Sys2Proof.Machine.execReadLog n s
  | .reset => Sys2Proof.Machine.execReset s
  | .frameData q sid rid p => Sys2Proof.Machine.execFrameData q sid rid p s
  | .frameAck q sid rid p => Sys2Proof.Machine.execFrameAck q sid rid p s

end Sys2Proof.Machine
end

