-- ==== Sys2Proof/Machine/Step.lean ====
section
/-! DEFINITION. One step: the block takes the oldest pending command and executes it (R67, R70); with none pending it is
idle and keeps all state (R262; assumption 2). -/

namespace Sys2Proof.Machine

/-- One step. -/
def step (s : State) : Host.Outcome State Fault Refusal :=
  match s.commands with
  | [] => .next s
  | cmd :: _ =>
    match decode cmd with
    | .ok i => exec i (dropCommand s)
    | .error _ => rejectCommand cmd (dropCommand s)

/-- `s` with the opcode table's word as the next command the block takes (assumption 3). -/
def State.withFetchWord (s : State) (nbits w : Nat) : State := putCommand (tableCommand nbits w) s

end Sys2Proof.Machine
end

