-- ==== Sys2Proof/Machine/Driver.lean ====
section
/-! DEFINITION. The host's side of the command port, outside the step: issuing a command and reading its response, the
pseudo-instructions XFER_DATA and SEND (R98), the reference driver iteration (R236) and the end of a run (R237). The
block never sees any of it; no rule of the block depends on it (R239). Assumption 20. -/

namespace Sys2Proof.Machine

/-- Issue one command and read its response: `none` only where the machine stops. -/
def issue (i : Instr) (s : State) : Option (Response × State) :=
  match exec i s with
  | .next t => t.responses.getLast?.map (fun r => (r, t))
  | .fault _ => none
  | .refused _ => none

/-- The wire value a response carries (`wire` of SUBMIT, `ack` of ON_FRAME); ABSENT where it carries none. -/
def wireOutput (r : Response) : Wire :=
  match r.outputs with
  | [.wire w] => w
  | [.byte _, .wire w] => w
  | _ => none

/-- The wire values a response of RETRANSMIT carries. -/
def wiresOutput (r : Response) : List Wire :=
  match r.outputs with
  | [.wires ws] => ws
  | _ => []

/-- `XFER_DATA w`: ON_FRAME w, then ACK_IN of its `ack` output (R98). -/
def xferData (w : Wire) (s : State) : Option State :=
  match issue (.onFrame w) s with
  | none => none
  | some (r, t) => (issue (.ackIn (wireOutput r)) t).map (·.2)

/-- `SEND p`: SUBMIT p, then, where the status is OK, XFER_DATA of its `wire` output (R98). The flag says whether the
payload was accepted. -/
def send (p : Bytes) (s : State) : Option (Bool × State) :=
  match issue (.submit p) s with
  | none => none
  | some (r, t) =>
    if r.status = .ok then (xferData (wireOutput r) t).map (fun u => (true, u)) else some (false, t)

/-- XFER_DATA of each wire value, in order. -/
def xferAll : List Wire → State → Option State
  | [], s => some s
  | w :: ws, s =>
    match xferData w s with
    | none => none
    | some t => xferAll ws t

/-- The part of an iteration after the submission (R236): IS_TIMEOUT, and where it fired RETRANSMIT and the transfer of
every frame. -/
def driverTimeout (s : State) : Option State :=
  match issue .isTimeout s with
  | none => none
  | some (r, t) =>
    if r.outputs = [.flag true] then
      match issue .retransmit t with
      | none => none
      | some (r', u) => xferAll (wiresOutput r') u
    else some t

/-- The part of an iteration that submits the next payload, if there is one left (R236). -/
def driverSubmit (payloads : List Bytes) (i : Nat) (s : State) : Option (Nat × State) :=
  match payloads[i]? with
  | none => some (i, s)
  | some p => (send p s).map (fun r => (if r.1 then i + 1 else i, r.2))

/-- One iteration of the reference driver (R236): `i` is the index of the next payload not yet submitted, `delta` the
ticks the host lets pass. -/
def driverIteration (payloads : List Bytes) (delta : BitVec 32) (i : Nat) (s : State) : Option (Nat × State) :=
  match driverSubmit payloads i s with
  | none => none
  | some (j, t) =>
    match driverTimeout t with
    | none => none
    | some u => (issue (.tick delta) u).map (fun r => (j, r.2))

/-- The run with this target has ended: the log holds that many entries and the block is not halted (R237; a halted
block is never the end, R257). It says nothing of the sender. -/
def runEnded (target : Nat) (s : State) : Bool := s.log.length == target && !halted s

/-- How a run stands at an iteration boundary (R237). -/
inductive RunVerdict where
  /-- The log holds the target and the block is not halted: the end of the run. -/
  | ended
  /-- The block is halted: the run has stopped without ending. -/
  | stoppedHalted
  /-- Neither: the run goes on. -/
  | goesOn
deriving DecidableEq, Repr

/-- How the run with this target stands (R237, R257). -/
def runVerdict (target : Nat) (s : State) : RunVerdict :=
  if halted s then .stoppedHalted else if runEnded target s then .ended else .goesOn

/-- A run of the reference driver, up to the boundary where it ends or has stopped, and for at most one iteration per
entry of `deltas`, the ticks the host lets pass in each (R236, R237). It gives the verdict, the index of the next payload
not yet submitted and the state; `none` only where the machine stops. -/
def driverRun (payloads : List Bytes) : List (BitVec 32) → Nat → State → Option (RunVerdict × Nat × State)
  | [], i, s => some (runVerdict payloads.length s, i, s)
  | delta :: deltas, i, s =>
    match runVerdict payloads.length s with
    | .ended => some (.ended, i, s)
    | .stoppedHalted => some (.stoppedHalted, i, s)
    | .goesOn =>
      match driverIteration payloads delta i s with
      | none => none
      | some (j, t) => driverRun payloads deltas j t

end Sys2Proof.Machine
end

