-- ==== Sys2Proof/Safety.lean ====
section
/-! DEFINITION. What the statements rest on: when a command executes normally, the invariants of R38 and of the
registers' ranges, and what it means that two states agree outside a part. -/

namespace Sys2Proof.Machine

/-- The block executes commands: no fault bit is set (R257) and the configuration is legal (R281). -/
abbrev State.running (s : State) : Prop := s.fault = 0 ∧ cfgLegal s.cfg = true

/-- `base`, `next_seq` and `expected` are in `[0, MAX_SEQ)` (R24, R25, R29). -/
abbrev State.seqsInRange (s : State) : Prop :=
  s.base.toNat < maxSeq s.cfg ∧ s.nextSeq.toNat < maxSeq s.cfg ∧ s.expected.toNat < maxSeq s.cfg

/-- (I2) of R38: a slot is taken iff its sequence number is one of the frames in flight. -/
def State.slotsMatchWindow (s : State) : Prop :=
  ∀ q : Byte, q.toNat < maxSeq s.cfg →
    ((bufRead q.toNat s.buf).isSome = true ↔ seqDist (maxSeq s.cfg) q s.base < outstanding s)

/-- (I3) of R38: each frame in the buffer is a DATA frame numbered as its slot. -/
def State.slotsNumbered (s : State) : Prop :=
  ∀ q f, bufRead q s.buf = some f → f.kind = .data ∧ f.seqNum.toNat = q

/-- (I1) to (I4) of R38. -/
def State.windowInv (s : State) : Prop :=
  outstanding s ≤ s.cfg.windowSize.toNat ∧ s.slotsMatchWindow ∧ s.slotsNumbered ∧
    (s.timerRunning = true → 0 < outstanding s)

/-- The log has not outgrown LOG_CAPACITY (R64, R210). -/
def State.logFits (s : State) : Prop := ∀ n, s.cfg.logCapacity = some n → s.log.length ≤ n

/-- The machine's invariant: the reserved fault bits read 0 (R35), the sequence registers are in range, the buffer is
canonical and its slots are below MAX_SEQ (R63), `timer_start` is a past value of `now` (R180), the log fits, and while
no fault bit is set the configuration is legal (R281) and (I1) to (I4) hold (R38). -/
def State.inv (s : State) : Prop :=
  s.fault &&& 0xE0 = 0 ∧ s.seqsInRange ∧ Buf.wf s.buf = true ∧ (∀ q f, bufRead q s.buf = some f → q < maxSeq s.cfg) ∧
    s.timerStart ≤ s.now ∧ s.logFits ∧ (s.fault = 0 → cfgLegal s.cfg = true ∧ s.windowInv)

/-- The frames in flight, `base` first: what `RETRANSMIT` sends (R188). -/
def windowFrames (s : State) : List Frame :=
  (List.range (outstanding s)).filterMap (fun k => bufRead ((s.base.toNat + k) % maxSeq s.cfg) s.buf)

/-- Frames passed through the channel one after the other, each from where the one before left it: the wire values on
the far side, and the channel state and entropy port in the end (R172, R188). -/
def crossAll (c : Cfg) : List Frame → ChState → Entropy → List Wire × ChState × Entropy
  | [], ch, e => ([], ch, e)
  | f :: fs, ch, e =>
    let x := propagate c (some (encodeFrame f)) ch e
    let r := crossAll c fs x.chState x.entropy
    (x.wire :: r.1, r.2)

/-- `t` is `s` but for the response port: the command wrote no state (R67). -/
def State.sameButResponses (s t : State) : Prop := t = { s with responses := t.responses }

/-- `t` is `s` but for the response port, `ch_state` and the entropy port (R65, R151). -/
def State.sameButChannel (s t : State) : Prop :=
  t = { s with responses := t.responses, chState := t.chState, entropy := t.entropy }

end Sys2Proof.Machine
end

