-- ==== Sys2Proof/Certificates/Slice0/Obligations.lean ====
section
/-! DEFINITION. The statements for the provers. Each docstring names the rule of spec/ it formalises. -/

open Sys2Proof Sys2Proof.Machine

/-! ### Encodings -/

/-- Words written out from the spec's encodings (R86-R92, R94; 95_test_vectors.md), one per format and unit, decode to
the command they stand for. -/
def Obligations.ListedCommandsDecode : Prop :=
  decode [0x01, 0x01, 0x00, 0x02, 0x31, 0x32] = .ok (.crc32 [0x31, 0x32]) ∧
  decode [0x03, 0x01, 0x07, 0x53, 0x52, 0x00, 0x01, 0x41] =
    .ok (.encode { kind := .ack, seqNum := 7, payload := [0x41], senderId := 0x53, receiverId := 0x52 }) ∧
  decode [0x05] = .ok .isCorrupt ∧
  decode [0x10, 0x00, 0x00, 0x00] = .ok (.propagate none) ∧
  decode [0x21, 0x02] = .ok (.onAck 2) ∧
  decode [0x30, 0x01, 0x00, 0x00] = .ok (.onFrame (some [])) ∧
  decode [0x40, 0x00, 0x00, 0x01, 0x0B] = .ok (.tick 267) ∧
  decode [0x41, 0x0B] = .ok (.read .fault) ∧
  decode [0x43, 0x01, 0x02] = .ok (.readLog 258)

/-- R85-R94: decoding the bytes of a well-formed command gives that command back, every operand kept. -/
def Obligations.EncodedCommandsDecodeBack : Prop :=
  ∀ i : Instr, i.wellFormed = true → i.isCommand = true → decode (encode i) = .ok i

/-- R85-R95: what the decoder accepts is a well-formed command, spelled exactly as the encoder spells it: no two byte
strings spell one command. -/
def Obligations.AcceptedBytesAreTheEncoding : Prop :=
  ∀ (cmd : Bytes) (i : Instr), decode cmd = .ok i → i.wellFormed = true ∧ i.isCommand = true ∧ encode i = cmd

/-- R99: the length of every legal command is what its opcode and, for formats B and F, its 16-bit length field
give. -/
def Obligations.LegalCommandsHaveTheirLength : Prop :=
  ∀ (cmd : Bytes) (i : Instr), decode cmd = .ok i → cmd.length = commandLength cmd

/-- R94, R95: a command whose byte 0 is not in the opcode map is illegal, whatever follows it. -/
def Obligations.UnlistedOpcodesAreIllegal : Prop :=
  ∀ (b : Byte) (rest : Bytes),
    b ∉ [0x01, 0x02, 0x03, 0x04, 0x05, 0x10, 0x11, 0x20, 0x21, 0x22, 0x23, 0x24, 0x30, 0x40, 0x41, 0x42, 0x43, 0xFF] →
    decode (b :: rest) = .error (.unknownOpcode b)

/-- R95, D39: `ABSENT` is illegal for CRC32, VERIFY, DECODE and SUBMIT, and legal for the other commands of format
B. -/
def Obligations.AbsentOperandsByCommand : Prop :=
  (∀ op : Byte, op ∈ [0x01, 0x02, 0x04, 0x20] → decode [op, 0, 0, 0] = .error .absentOperand) ∧
  decode [0x10, 0, 0, 0] = .ok (.propagate none) ∧ decode [0x11, 0, 0, 0] = .ok (.propagateBsc none) ∧
  decode [0x22, 0, 0, 0] = .ok (.ackIn none) ∧ decode [0x30, 0, 0, 0] = .ok (.onFrame none)

/-- R115: the classes of `Decode`, by the first check that fails, and the diagnostic sequence number. -/
def Obligations.DecodeClassifiesInOrder : Prop :=
  ∀ b : Bytes,
    (b.length < 6 → decodeFrame b = .corrupt .structural (diagSeq b)) ∧
    (6 ≤ b.length → embeddedChecksum b ≠ crc32 (b.drop 4) → decodeFrame b = .corrupt .integrity (diagSeq b)) ∧
    (6 ≤ b.length → embeddedChecksum b = crc32 (b.drop 4) → b.length < 8 →
      decodeFrame b = .corrupt .structural (diagSeq b)) ∧
    (8 ≤ b.length → embeddedChecksum b = crc32 (b.drop 4) → b.getD 5 0 ≠ 0x00 → b.getD 5 0 ≠ 0x01 →
      decodeFrame b = .corrupt .structural (diagSeq b)) ∧
    (8 ≤ b.length → embeddedChecksum b = crc32 (b.drop 4) → b.getD 5 0 = 0x00 →
      decodeFrame b = .valid {
        kind := .data, seqNum := b.getD 4 0, senderId := b.getD 6 0, receiverId := b.getD 7 0
        payload := b.drop 8 }) ∧
    (8 ≤ b.length → embeddedChecksum b = crc32 (b.drop 4) → b.getD 5 0 = 0x01 →
      decodeFrame b = .valid {
        kind := .ack, seqNum := b.getD 4 0, senderId := b.getD 6 0, receiverId := b.getD 7 0
        payload := b.drop 8 }) ∧
    (5 ≤ b.length → diagSeq b = b.getD 4 0) ∧ (b.length < 5 → diagSeq b = 0)

/-- R120: the round trip of the codec, for every frame. -/
def Obligations.EncodedFramesDecodeBack : Prop := ∀ f : Frame, decodeFrame (encodeFrame f) = .valid f

/-- R80-R83, R113, R115: a byte string that decodes valid is the serialization of the frame it decodes to, so no two
byte strings carry one frame. -/
def Obligations.ValidBytesAreTheFramesEncoding : Prop :=
  ∀ (b : Bytes) (f : Frame), decodeFrame b = .valid f → b = encodeFrame f

/-- R121: every single-bit flip of an encoded frame decodes corrupt. It rests on the CRC-32 parameters of R110, which
the spec presumes (assumption 18). -/
def Obligations.SingleBitFlipsAreDetected : Prop :=
  ∀ (f : Frame) (k : Nat), k < 8 * (encodeFrame f).length →
    ∃ cls d, decodeFrame (flipBit (encodeFrame f) k) = .corrupt cls d

/-! ### The step -/

/-- R67, R70: a pending command that decodes runs as that instruction, on the state that has taken it off the port. -/
def Obligations.StepRunsTheOldestCommand : Prop :=
  ∀ (s : State) (cmd : Bytes) (rest : List Bytes) (i : Instr),
    s.commands = cmd :: rest → decode cmd = .ok i → step s = exec i { s with commands := rest }

/-- R85, R256: an illegal command answers FAULT, sets F_ILLEGAL_COMMAND and changes nothing else. -/
def Obligations.IllegalCommandsOnlyFault : Prop :=
  ∀ (s : State) (cmd : Bytes) (rest : List Bytes) (e : DecodeError),
    s.fault = 0 → s.commands = cmd :: rest → decode cmd = .error e →
    step s = .next { s with
      commands := rest, fault := 0x01, responses := s.responses ++ [{ status := .fault, outputs := [] }] }

/-- R262, assumption 2 (DEDUCED): with no command pending the block keeps all state. -/
def Obligations.IdleStepKeepsAllState : Prop := ∀ s : State, s.commands = [] → step s = .next s

/-- R257: a halted block answers HALTED, with no outputs and no change, to every command but READ and RESET, and to
every illegal command whose opcode is not theirs. -/
def Obligations.HaltedBlockOnlyAnswersHalted : Prop :=
  (∀ (i : Instr) (s : State), s.fault ≠ 0 → i ≠ .reset → (∀ sel, i ≠ .read sel) →
    exec i s = .next { s with responses := s.responses ++ [{ status := .halted, outputs := [] }] }) ∧
  (∀ (s : State) (cmd : Bytes) (rest : List Bytes) (e : DecodeError),
    s.fault ≠ 0 → s.commands = cmd :: rest → decode cmd = .error e → cmd.head? ≠ some 0x41 → cmd.head? ≠ some 0xFF →
    step s = .next { s with
      commands := rest, responses := s.responses ++ [{ status := .halted, outputs := [] }] })

/-- R253, R281: the block is never stopped. Where an illegal configuration has halted it, as RESET does, every step
answers a next state. -/
def Obligations.EveryStepAnswersANextState : Prop :=
  ∀ s : State, (s.fault = 0 → cfgLegal s.cfg = true) → ∃ t, step s = .next t

/-- R96: every executed command gives exactly one response, and one with status FAULT or HALTED has no outputs. -/
def Obligations.OneResponsePerCommand : Prop :=
  ∀ (i : Instr) (s t : State), exec i s = .next t →
    ∃ r, t.responses = s.responses ++ [r] ∧ (r.status = .fault ∨ r.status = .halted → r.outputs = [])

/-! ### Codec -/

/-- R111: CRC32 answers the code of its operand and writes no state. -/
def Obligations.Crc32AnswersTheCode : Prop :=
  ∀ (b : Bytes) (s : State), s.running →
    exec (.crc32 b) s = .next { s with
      responses := s.responses ++ [{ status := .ok, outputs := [.word32 (crc32 b)] }] }

/-- R112: VERIFY compares the embedded and the computed code, and writes no state. -/
def Obligations.VerifyComparesTheCodes : Prop :=
  ∀ (b : Bytes) (s : State), s.running →
    (b.length < 4 → exec (.verify b) s = .next { s with
      responses := s.responses ++ [{ status := .ok, outputs := [.flag false, .word32 0, .word32 0] }] }) ∧
    (∀ (b3 b2 b1 b0 : Byte) (rest : Bytes), b = b3 :: b2 :: b1 :: b0 :: rest →
      exec (.verify b) s = .next { s with
        responses := s.responses ++ [{ status := .ok, outputs :=
          [.flag (decide (b3 ++ b2 ++ b1 ++ b0 = crc32 rest)), .word32 (b3 ++ b2 ++ b1 ++ b0),
           .word32 (crc32 rest)] }] })

/-- R113, R114: ENCODE answers the serialized frame, checksum first and big-endian, and writes no state. -/
def Obligations.EncodeAnswersTheWireFrame : Prop :=
  ∀ (f : Frame) (s : State), s.running →
    exec (.encode f) s = .next { s with
      responses := s.responses ++ [{ status := .ok, outputs := [.wire (some
        (be32 (crc32 (f.seqNum :: kindCode f.kind :: f.senderId :: f.receiverId :: f.payload)) ++
          f.seqNum :: kindCode f.kind :: f.senderId :: f.receiverId :: f.payload))] }] }

/-- R118: DECODE writes the result to DR and answers it, with the status of its class. -/
def Obligations.DecodeWritesAndAnswersTheResult : Prop :=
  ∀ (b : Bytes) (s : State), s.running →
    (∀ f, decodeFrame b = .valid f → exec (.decode b) s = .next { s with
      dr := some (.valid f)
      responses := s.responses ++
        [{ status := .ok, outputs := [.flag true, .byte 0, .byte f.seqNum, .frame f] }] }) ∧
    (∀ d, decodeFrame b = .corrupt .structural d → exec (.decode b) s = .next { s with
      dr := some (.corrupt .structural d)
      responses := s.responses ++
        [{ status := .corruptStructural, outputs := [.flag false, .byte 1, .byte d] }] }) ∧
    (∀ d, decodeFrame b = .corrupt .integrity d → exec (.decode b) s = .next { s with
      dr := some (.corrupt .integrity d)
      responses := s.responses ++
        [{ status := .corruptIntegrity, outputs := [.flag false, .byte 2, .byte d] }] })

/-- R119: IS_CORRUPT reports on DR, and faults with F_NO_DECODE_RESULT where DR is NONE. -/
def Obligations.IsCorruptReportsTheLastDecode : Prop :=
  ∀ s : State, s.running →
    (s.dr = none → exec .isCorrupt s = .next { s with
      fault := 0x02, responses := s.responses ++ [{ status := .fault, outputs := [] }] }) ∧
    (∀ cls d, s.dr = some (.corrupt cls d) → exec .isCorrupt s = .next { s with
      responses := s.responses ++ [{ status := .ok, outputs := [.flag true] }] }) ∧
    (∀ f, s.dr = some (.valid f) → exec .isCorrupt s = .next { s with
      responses := s.responses ++ [{ status := .ok, outputs := [.flag false] }] })

/-- R115, R120 and assumption 14 (the model's choice of what a wire frame does by itself): each of the two wire frames
decodes valid to its own kind and fields, the result is answered as DECODE answers it, and no state is written. -/
def Obligations.WireFramesDecodeToThemselves : Prop :=
  ∀ (q sid rid : Byte) (p : Bytes) (s : State), s.running →
    exec (.frameData q sid rid p) s = .next { s with
      responses := s.responses ++ [{ status := .ok, outputs := [.flag true, .byte 0, .byte q,
        .frame { kind := .data, seqNum := q, payload := p, senderId := sid, receiverId := rid }] }] } ∧
    exec (.frameAck q sid rid p) s = .next { s with
      responses := s.responses ++ [{ status := .ok, outputs := [.flag true, .byte 0, .byte q,
        .frame { kind := .ack, seqNum := q, payload := p, senderId := sid, receiverId := rid }] }] }

/-- R67: READ, READ_BUF, READ_LOG, CRC32, VERIFY and ENCODE change no state, and DECODE writes only DR. The two wire
frames change none either (assumption 14). -/
def Obligations.ReadsChangeNoState : Prop :=
  ∀ (s t : State),
    (∀ b, exec (.crc32 b) s = .next t → s.sameButResponses t) ∧
    (∀ b, exec (.verify b) s = .next t → s.sameButResponses t) ∧
    (∀ f, exec (.encode f) s = .next t → s.sameButResponses t) ∧
    (∀ sel, exec (.read sel) s = .next t → s.sameButResponses t) ∧
    (∀ q, exec (.readBuf q) s = .next t → s.sameButResponses t) ∧
    (∀ n, exec (.readLog n) s = .next t → s.sameButResponses t) ∧
    (∀ q sid rid p, exec (.frameData q sid rid p) s = .next t → s.sameButResponses t) ∧
    (∀ q sid rid p, exec (.frameAck q sid rid p) s = .next t → s.sameButResponses t) ∧
    (∀ b, exec (.decode b) s = .next t → t = { s with responses := t.responses, dr := t.dr })

/-! ### Channel -/

/-- R141 and assumption 5: draws with `p = 0` and `p = 1` are forced and take no answer of the host's; any other draw
takes the host's next answer where there is one. Each is recorded. -/
def Obligations.DrawsAreForcedOrTheHosts : Prop :=
  ∀ (p : Prob) (e : Entropy),
    (p = 0 → drawResult p e = false ∧ (drawNext p e).answers = e.answers) ∧
    (p = 1 → drawResult p e = true ∧ (drawNext p e).answers = e.answers) ∧
    (∀ a rest, p ≠ 0 → p ≠ 1 → e.answers = a :: rest →
      drawResult p e = a ∧ (drawNext p e).answers = rest) ∧
    (drawNext p e).drawn = (p, drawResult p e) :: e.drawn

/-- R148, R149: PROPAGATE applies the strategy CHANNEL_MODE names and writes `ch_state` and the entropy port only. -/
def Obligations.PropagateAppliesTheMode : Prop :=
  ∀ (w : Wire) (s : State), s.running →
    ∃ x : Crossing,
      exec (.propagate w) s = .next { s with
        chState := x.chState, entropy := x.entropy
        responses := s.responses ++ [{ status := .ok, outputs := [.wire x.wire] }] } ∧
      (s.cfg.modeCode = 0 → x = { wire := w, chState := s.chState, entropy := s.entropy }) ∧
      (s.cfg.modeCode = 1 → x = ge s.cfg w s.chState s.entropy) ∧
      (s.cfg.modeCode = 2 → x = bsc s.cfg.bscP w s.chState s.entropy) ∧
      (s.cfg.modeCode = 3 → x = loss s.cfg.probLoss w s.chState s.entropy (geBytes s.cfg)) ∧
      (s.cfg.modeCode = 4 → x = loss s.cfg.probLoss w s.chState s.entropy (bscBytes s.cfg.bscP))

/-- R146, R150: PROPAGATE_BSC applies `Bsc` with BSC_P whatever CHANNEL_MODE is, and writes the entropy port only. -/
def Obligations.PropagateBscKeepsChState : Prop :=
  ∀ (w : Wire) (s : State), s.running →
    exec (.propagateBsc w) s = .next { s with
      entropy := (bsc s.cfg.bscP w s.chState s.entropy).entropy
      responses := s.responses ++
        [{ status := .ok, outputs := [.wire (bsc s.cfg.bscP w s.chState s.entropy).wire] }] }

/-- R145-R147: `ABSENT` and `EMPTY` come out of every strategy but IDEAL as `ABSENT`, with no draw and no state change.
R147: a byte string that meets the loss decorator is lost whole where the one loss draw is a hit, `ch_state` unchanged and
the inner strategy not run; else it is what the inner strategy makes of it from after that draw. -/
def Obligations.NothingCrossesAsAbsent : Prop :=
  ∀ (c : Cfg) (p : Prob) (ch : ChState) (e : Entropy) (inner : Bytes → ChState → Entropy → Crossing),
    (∀ w : Wire, w = none ∨ w = some [] →
      ge c w ch e = { wire := none, chState := ch, entropy := e } ∧
      bsc p w ch e = { wire := none, chState := ch, entropy := e } ∧
      loss p w ch e inner = { wire := none, chState := ch, entropy := e }) ∧
    (∀ b : Bytes, b ≠ [] →
      (drawResult p e = true →
        loss p (some b) ch e inner = { wire := none, chState := ch, entropy := drawNext p e }) ∧
      (drawResult p e = false → loss p (some b) ch e inner = inner b ch (drawNext p e)))

/-- R151: what comes out of the channel is `ABSENT` or a byte string of the input's length. -/
def Obligations.CrossingKeepsLength : Prop :=
  ∀ (c : Cfg) (w : Wire) (ch : ChState) (e : Entropy) (b : Bytes),
    (propagate c w ch e).wire = some b → ∃ a, w = some a ∧ a.length = b.length

/-- R149: the draws of a propagation. `GE` takes two a bit, `BSC` one a bit, and the loss decorator one before the
inner strategy's, which a lost frame never reaches. R147, R148: in the loss modes a frame whose loss draw is a hit comes
out `ABSENT` with `ch_state` unchanged and that one draw taken, and any other frame is what `GE` or `BSC` makes of it from
after that draw. -/
def Obligations.CrossingDrawCounts : Prop :=
  ∀ (c : Cfg) (b : Bytes) (ch : ChState) (e : Entropy), b ≠ [] →
    (c.modeCode = 0 → (propagate c (some b) ch e).entropy = e) ∧
    (c.modeCode = 1 → (propagate c (some b) ch e).entropy.drawn.length = e.drawn.length + 16 * b.length) ∧
    (c.modeCode = 2 → (propagate c (some b) ch e).entropy.drawn.length = e.drawn.length + 8 * b.length) ∧
    (c.modeCode = 3 → (propagate c (some b) ch e).entropy.drawn.length =
      e.drawn.length + 1 + if drawResult c.probLoss e = true then 0 else 16 * b.length) ∧
    (c.modeCode = 4 → (propagate c (some b) ch e).entropy.drawn.length =
      e.drawn.length + 1 + if drawResult c.probLoss e = true then 0 else 8 * b.length) ∧
    (c.modeCode = 3 ∨ c.modeCode = 4 → drawResult c.probLoss e = true →
      propagate c (some b) ch e = { wire := none, chState := ch, entropy := drawNext c.probLoss e }) ∧
    (c.modeCode = 3 → drawResult c.probLoss e = false →
      propagate c (some b) ch e = ge c (some b) ch (drawNext c.probLoss e)) ∧
    (c.modeCode = 4 → drawResult c.probLoss e = false →
      propagate c (some b) ch e = bsc c.bscP (some b) ch (drawNext c.probLoss e))

/-- R145, R149 (corner cases): with `K = H = 0` the bytes come out of `GE` unchanged; with `P = R = 0` `ch_state` never
changes. -/
def Obligations.GeWithoutErrorsOrTransitions : Prop :=
  ∀ (c : Cfg) (b : Bytes) (ch : ChState) (e : Entropy), b ≠ [] →
    (c.probK = 0 → c.probH = 0 → (ge c (some b) ch e).wire = some b) ∧
    (c.probP = 0 → c.probR = 0 → (ge c (some b) ch e).chState = ch)

/-- R146, R142: `Bsc` visits the bits 0, 1, ..., `8 * len - 1` in that order, with one draw a bit, and a hit inverts the
bit visited. R150 (corner cases): `BSC_P = 1` inverts every bit, `BSC_P = 0` returns the input. -/
def Obligations.BscOfOneInvertsEveryBit : Prop :=
  (∀ (p : Prob) (b : Bytes) (ch : ChState) (e : Entropy), b ≠ [] →
    bsc p (some b) ch e = {
      wire := some (bscBits p (List.range (8 * b.length)) b e).1, chState := ch
      entropy := (bscBits p (List.range (8 * b.length)) b e).2 }) ∧
  (∀ (p : Prob) (b : Bytes) (e : Entropy), bscBits p [] b e = (b, e)) ∧
  (∀ (p : Prob) (k : Nat) (ks : List Nat) (b : Bytes) (e : Entropy),
    (drawResult p e = true → bscBits p (k :: ks) b e = bscBits p ks (flipBit b k) (drawNext p e)) ∧
    (drawResult p e = false → bscBits p (k :: ks) b e = bscBits p ks b (drawNext p e))) ∧
  (∀ (b : Bytes) (ch : ChState) (e : Entropy), b ≠ [] →
    (bsc 1 (some b) ch e).wire = some (b.map (fun x => ~~~x)) ∧ (bsc 0 (some b) ch e).wire = some b)

/-- R145, R142: `GE` visits the bits 0, 1, ..., `8 * len - 1` in that order. R144, R145: the transition draw of a visit is
labelled by the state before it and the error draw by the state after it; a hit inverts bit `7 - (k mod 8)` of byte
`k div 8` and no other bit. -/
def Obligations.GeBitTransitionsFirst : Prop :=
  (∀ (c : Cfg) (b : Bytes) (ch : ChState) (e : Entropy), b ≠ [] →
    ∃ r, r = geBits c (List.range (8 * b.length)) b ch e ∧
      ge c (some b) ch e = { wire := some r.1, chState := r.2.1, entropy := r.2.2 }) ∧
  (∀ (c : Cfg) (b : Bytes) (ch : ChState) (e : Entropy), geBits c [] b ch e = (b, ch, e)) ∧
  (∀ (c : Cfg) (k : Nat) (ks : List Nat) (b : Bytes) (ch : ChState) (e : Entropy),
    (∃ ch' e1 e2 b',
      (ch = .good → drawResult c.probP e = true → ch' = .bad) ∧
      (ch = .good → drawResult c.probP e = false → ch' = .good) ∧
      (ch = .bad → drawResult c.probR e = true → ch' = .good) ∧
      (ch = .bad → drawResult c.probR e = false → ch' = .bad) ∧
      (ch = .good → e1 = drawNext c.probP e) ∧ (ch = .bad → e1 = drawNext c.probR e) ∧
      (ch' = .good → b' = (if drawResult c.probK e1 = true then flipBit b k else b) ∧ e2 = drawNext c.probK e1) ∧
      (ch' = .bad → b' = (if drawResult c.probH e1 = true then flipBit b k else b) ∧ e2 = drawNext c.probH e1) ∧
      geBits c (k :: ks) b ch e = geBits c ks b' ch' e2) ∧
    (∀ n j, n < b.length → j < 8 →
      ((flipBit b k).getD n 0).getLsbD j = ((b.getD n 0).getLsbD j ^^ decide (n = k / 8 ∧ j = 7 - k % 8))))

/-! ### Sender -/

/-- R170-R172: an accepted SUBMIT buffers the frame at `next_seq`, advances `next_seq`, counts it, starts the timer only
on an empty window, sends the frame once, and changes nothing else. -/
def Obligations.SubmitAdmitsIntoTheWindow : Prop :=
  ∀ (p : Bytes) (s : State), s.running → s.seqsInRange → p.length ≤ s.cfg.maxPayload.toNat →
    outstanding s < s.cfg.windowSize.toNat →
    ∃ (t : State) (f : Frame) (x : Crossing),
      exec (.submit p) s = .next t ∧
      f = { kind := .data, seqNum := s.nextSeq, payload := p, senderId := s.cfg.senderTag,
            receiverId := s.cfg.receiverTag } ∧
      x = propagate s.cfg (some (encodeFrame f)) s.chState s.entropy ∧
      bufRead s.nextSeq.toNat t.buf = some f ∧
      (∀ q, q ≠ s.nextSeq.toNat → bufRead q t.buf = bufRead q s.buf) ∧
      t.nextSeq.toNat = (s.nextSeq.toNat + 1) % maxSeq s.cfg ∧
      t.txCount = s.txCount + 1 ∧
      (s.base = s.nextSeq → t.timerRunning = true ∧ t.timerStart = s.now) ∧
      (s.base ≠ s.nextSeq → t.timerRunning = s.timerRunning ∧ t.timerStart = s.timerStart) ∧
      t.responses = s.responses ++ [{ status := .ok, outputs := [.byte s.nextSeq, .wire x.wire] }] ∧
      t.chState = x.chState ∧ t.entropy = x.entropy ∧
      t = { s with
        buf := t.buf, nextSeq := t.nextSeq, txCount := t.txCount, timerRunning := t.timerRunning
        timerStart := t.timerStart, responses := t.responses, chState := t.chState, entropy := t.entropy }

/-- R170, R255: SUBMIT reports a payload that is too long before a full window, and either leaves the state alone. -/
def Obligations.SubmitRejectsInOrder : Prop :=
  ∀ (p : Bytes) (s : State), s.running →
    (s.cfg.maxPayload.toNat < p.length → exec (.submit p) s = .next { s with
      responses := s.responses ++ [{ status := .payloadTooLong, outputs := [] }] }) ∧
    (p.length ≤ s.cfg.maxPayload.toNat → s.cfg.windowSize.toNat ≤ outstanding s →
      exec (.submit p) s = .next { s with
        responses := s.responses ++ [{ status := .windowFull, outputs := [] }] })

/-- R173, R174, R176: the three rejections of ON_ACK, in their order, with no state change. -/
def Obligations.OnAckRejectsWithoutChange : Prop :=
  ∀ (a : Byte) (s : State), s.running →
    (maxSeq s.cfg ≤ a.toNat → exec (.onAck a) s = .next { s with
      responses := s.responses ++ [{ status := .ackOutOfRange, outputs := [] }] }) ∧
    (a.toNat < maxSeq s.cfg → seqDist (maxSeq s.cfg) a s.base = 0 → exec (.onAck a) s = .next { s with
      responses := s.responses ++ [{ status := .ackDuplicate, outputs := [] }] }) ∧
    (a.toNat < maxSeq s.cfg → maxSeq s.cfg / 2 < seqDist (maxSeq s.cfg) a s.base →
      exec (.onAck a) s = .next { s with
        responses := s.responses ++ [{ status := .ackStale, outputs := [] }] })

/-- R174, R175: an advancing ACK moves `base` to its number, empties exactly the slots it confirms, stops the timer if
the window is now empty and restarts it otherwise, and changes nothing else. -/
def Obligations.OnAckAdvancesTheWindow : Prop :=
  ∀ (a : Byte) (s : State), s.running → s.seqsInRange → Buf.wf s.buf = true → a.toNat < maxSeq s.cfg →
    0 < seqDist (maxSeq s.cfg) a s.base → seqDist (maxSeq s.cfg) a s.base ≤ maxSeq s.cfg / 2 →
    seqDist (maxSeq s.cfg) a s.base ≤ outstanding s →
    ∃ t : State,
      exec (.onAck a) s = .next t ∧
      t.base = a ∧
      (∀ q : Byte, q.toNat < maxSeq s.cfg →
        bufRead q.toNat t.buf =
          if seqDist (maxSeq s.cfg) q s.base < seqDist (maxSeq s.cfg) a s.base then none
          else bufRead q.toNat s.buf) ∧
      (seqDist (maxSeq s.cfg) a s.base = outstanding s →
        t.timerRunning = false ∧ t.timerStart = s.timerStart) ∧
      (seqDist (maxSeq s.cfg) a s.base < outstanding s → t.timerRunning = true ∧ t.timerStart = s.now) ∧
      t.responses = s.responses ++
        [{ status := .ok, outputs := [.byte (BitVec.ofNat 8 (seqDist (maxSeq s.cfg) a s.base))] }] ∧
      t = { s with
        base := t.base, buf := t.buf, timerRunning := t.timerRunning, timerStart := t.timerStart
        responses := t.responses }

/-- R175, R177: an ACK beyond `next_seq` makes the literal advance and then halts the block with
F_ACK_BEYOND_NEXT. -/
def Obligations.OnAckBeyondNextHalts : Prop :=
  ∀ (a : Byte) (s : State), s.running → s.seqsInRange → Buf.wf s.buf = true → a.toNat < maxSeq s.cfg →
    outstanding s < seqDist (maxSeq s.cfg) a s.base → seqDist (maxSeq s.cfg) a s.base ≤ maxSeq s.cfg / 2 →
    ∃ t : State,
      exec (.onAck a) s = .next t ∧
      t.base = a ∧ t.fault = 0x04 ∧ t.timerRunning = true ∧ t.timerStart = s.now ∧
      (∀ q : Byte, q.toNat < maxSeq s.cfg →
        bufRead q.toNat t.buf =
          if seqDist (maxSeq s.cfg) q s.base < seqDist (maxSeq s.cfg) a s.base then none
          else bufRead q.toNat s.buf) ∧
      t.responses = s.responses ++ [{ status := .fault, outputs := [] }] ∧
      t = { s with
        base := t.base, buf := t.buf, timerRunning := t.timerRunning, timerStart := t.timerStart
        fault := t.fault, responses := t.responses }

/-- R178: ACK_IN drops what is absent, empty, corrupt or a DATA frame, with no state change. -/
def Obligations.AckInDropsWhatIsNoAck : Prop :=
  ∀ (w : Wire) (s : State), s.running →
    (w = none ∨ w = some [] → exec (.ackIn w) s = .next { s with
      responses := s.responses ++ [{ status := .nothingArrived, outputs := [] }] }) ∧
    (∀ b d, w = some b → b ≠ [] → decodeFrame b = .corrupt .structural d → exec (.ackIn w) s = .next { s with
      responses := s.responses ++ [{ status := .corruptStructural, outputs := [] }] }) ∧
    (∀ b d, w = some b → decodeFrame b = .corrupt .integrity d → exec (.ackIn w) s = .next { s with
      responses := s.responses ++ [{ status := .corruptIntegrity, outputs := [] }] }) ∧
    (∀ b f, w = some b → decodeFrame b = .valid f → f.kind = .data → exec (.ackIn w) s = .next { s with
      responses := s.responses ++ [{ status := .notAck, outputs := [] }] })

/-- R178, D23: ACK_IN of a valid ACK does what ON_ACK does with the number it carries, its status and outputs, whatever
its tags and payload; an advancing one moves `base` to its number and answers OK. -/
def Obligations.AckInOfAnAckIsOnAck : Prop :=
  ∀ (q sid rid : Byte) (p : Bytes) (s : State), s.running →
    ∃ t : State,
      exec (.ackIn (some (encodeFrame
        { kind := .ack, seqNum := q, payload := p, senderId := sid, receiverId := rid }))) s = .next t ∧
      exec (.onAck q) s = .next t ∧
      (s.seqsInRange → Buf.wf s.buf = true → q.toNat < maxSeq s.cfg → 0 < seqDist (maxSeq s.cfg) q s.base →
        seqDist (maxSeq s.cfg) q s.base ≤ maxSeq s.cfg / 2 → seqDist (maxSeq s.cfg) q s.base ≤ outstanding s →
        t.base = q ∧ t.responses = s.responses ++
          [{ status := .ok, outputs := [.byte (BitVec.ofNat 8 (seqDist (maxSeq s.cfg) q s.base))] }])

/-- R180, R185: IS_TIMEOUT fires iff the timer is running and has run for more than TIMEOUT ticks, and then stops it. -/
def Obligations.IsTimeoutFiresAndDisarms : Prop :=
  ∀ s : State, s.running →
    (s.timerRunning = true → s.timerStart + s.cfg.timeout < s.now → exec .isTimeout s = .next { s with
      timerRunning := false, responses := s.responses ++ [{ status := .ok, outputs := [.flag true] }] }) ∧
    (s.timerRunning = false ∨ s.now ≤ s.timerStart + s.cfg.timeout → exec .isTimeout s = .next { s with
      responses := s.responses ++ [{ status := .ok, outputs := [.flag false] }] })

/-- R188, R172: RETRANSMIT sends every buffered frame of the window again, `base` first, each once through the channel,
counts them, restarts the timer once unless the window is empty, and changes nothing else. -/
def Obligations.RetransmitSendsTheWindow : Prop :=
  ∀ s : State, s.running → s.seqsInRange →
    ∃ (t : State) (r : List Wire × ChState × Entropy),
      exec .retransmit s = .next t ∧
      r = crossAll s.cfg (windowFrames s) s.chState s.entropy ∧
      t.responses = s.responses ++ [{ status := .ok, outputs := [.wires r.1] }] ∧
      t.chState = r.2.1 ∧ t.entropy = r.2.2 ∧
      t.retxCount = s.retxCount + (windowFrames s).length ∧
      (s.base = s.nextSeq → t.timerRunning = s.timerRunning ∧ t.timerStart = s.timerStart) ∧
      (s.base ≠ s.nextSeq → t.timerRunning = true ∧ t.timerStart = s.now) ∧
      t = { s with
        retxCount := t.retxCount, timerRunning := t.timerRunning, timerStart := t.timerStart
        responses := t.responses, chState := t.chState, entropy := t.entropy }

/-- R188, R143: on an ideal channel the frames RETRANSMIT answers are the encodings of the whole window in sequence
order, one for each frame in flight, in every state that meets the invariant of R38. -/
def Obligations.IdealRetransmitIsTheWholeWindow : Prop :=
  ∀ s : State, s.running → s.inv → s.cfg.modeCode = 0 →
    (windowFrames s).length = outstanding s ∧
    ∃ t : State, exec .retransmit s = .next t ∧
      t.responses = s.responses ++
        [{ status := .ok, outputs := [.wires ((windowFrames s).map (fun f => some (encodeFrame f)))] }]

/-- R186, R27: the commands that start a stopped timer, those that stop a running one, and those that restart it, and when
each does: RETRANSMIT of a window that is not empty, SUBMIT into an empty window, and an ACK that moves `base` and leaves
the window not empty write `now` to `timer_start`; IS_TIMEOUT stops the timer on firing, an ACK that moves `base` stops it
on an empty window, and RESET stops it. -/
def Obligations.TimerDiscipline : Prop :=
  ∀ (i : Instr) (s t : State), exec i s = .next t →
    (s.timerRunning = false → t.timerRunning = true →
      (i = .retransmit ∧ s.base ≠ s.nextSeq) ∨ (∃ p, i = .submit p ∧ s.base = s.nextSeq) ∨
      (((∃ a, i = .onAck a) ∨ ∃ w, i = .ackIn w) ∧ t.base ≠ t.nextSeq ∧ t.base ≠ s.base)) ∧
    (s.timerRunning = true → t.timerRunning = false →
      (i = .isTimeout ∧ s.cfg.timeout < s.now - s.timerStart) ∨ i = .reset ∨
      (((∃ a, i = .onAck a) ∨ ∃ w, i = .ackIn w) ∧ t.base = t.nextSeq ∧ t.base ≠ s.base)) ∧
    (t.timerStart ≠ s.timerStart → i ≠ .reset →
      t.timerRunning = true ∧ t.timerStart = s.now ∧
      ((i = .retransmit ∧ s.base ≠ s.nextSeq) ∨ (∃ p, i = .submit p ∧ s.base = s.nextSeq) ∨
        (((∃ a, i = .onAck a) ∨ ∃ w, i = .ackIn w) ∧ t.base ≠ t.nextSeq ∧ t.base ≠ s.base)))

/-- R189: the sender's phases under the commands that move them, in every state that meets the invariant of R38. -/
def Obligations.SenderPhaseTransitions : Prop :=
  ∀ s t : State, s.running → s.inv →
    (∀ p, exec (.submit p) s = .next t → p.length ≤ s.cfg.maxPayload.toNat →
      outstanding s < s.cfg.windowSize.toNat →
      phase t = if phase s = .expired then .expired else .armed) ∧
    (∀ a, exec (.onAck a) s = .next t → a.toNat < maxSeq s.cfg → 0 < seqDist (maxSeq s.cfg) a s.base →
      seqDist (maxSeq s.cfg) a s.base ≤ maxSeq s.cfg / 2 → seqDist (maxSeq s.cfg) a s.base ≤ outstanding s →
      phase t = if seqDist (maxSeq s.cfg) a s.base = outstanding s then .idle else .armed) ∧
    (exec .isTimeout s = .next t →
      phase t = if s.timerRunning = true ∧ s.timerStart + s.cfg.timeout < s.now then .expired else phase s) ∧
    (exec .retransmit s = .next t → phase t = if phase s = .idle then .idle else .armed)

/-! ### Receiver -/

/-- R210-R212: the DATA frame numbered `expected` is appended to the log, `expected` advances, and one ACK for the new
`expected` crosses the channel; nothing else changes. -/
def Obligations.OnFrameAcceptsInOrder : Prop :=
  ∀ (b : Bytes) (f : Frame) (s : State), s.running → decodeFrame b = .valid f → f.kind = .data →
    f.seqNum = s.expected → s.cfg.logCapacity ≠ some s.log.length →
    ∃ (t : State) (x : Crossing),
      exec (.onFrame (some b)) s = .next t ∧
      t.log = s.log ++ [f.payload] ∧
      t.expected.toNat = (s.expected.toNat + 1) % maxSeq s.cfg ∧
      x = propagate s.cfg (some (encodeFrame {
        kind := .ack, seqNum := t.expected, payload := [], senderId := s.cfg.receiverTag
        receiverId := s.cfg.senderTag })) s.chState s.entropy ∧
      t.responses = s.responses ++ [{ status := .ok, outputs := [.wire x.wire] }] ∧
      t.chState = x.chState ∧ t.entropy = x.entropy ∧
      t = { s with
        log := t.log, expected := t.expected, responses := t.responses, chState := t.chState
        entropy := t.entropy }

/-- R210-R212: a corrupt frame, a frame out of order and an ACK at the Receiver are discarded, and one ACK for
`expected` crosses the channel; no other state changes. -/
def Obligations.OnFrameDiscardsAndReAcks : Prop :=
  ∀ (b : Bytes) (s : State) (st : Status), s.running → b ≠ [] →
    (∃ d, decodeFrame b = .corrupt .structural d ∧ st = .corruptStructural) ∨
    (∃ d, decodeFrame b = .corrupt .integrity d ∧ st = .corruptIntegrity) ∨
    (∃ f, decodeFrame b = .valid f ∧ (f.kind = .ack ∨ f.seqNum ≠ s.expected) ∧ st = .outOfOrder) →
    ∃ x : Crossing,
      x = propagate s.cfg (some (encodeFrame {
        kind := .ack, seqNum := s.expected, payload := [], senderId := s.cfg.receiverTag
        receiverId := s.cfg.senderTag })) s.chState s.entropy ∧
      exec (.onFrame (some b)) s = .next { s with
        chState := x.chState, entropy := x.entropy
        responses := s.responses ++ [{ status := st, outputs := [.wire x.wire] }] }

/-- R210, R251 (4): where nothing arrived the Receiver does nothing and computes no ACK. -/
def Obligations.OnFrameOfNothingDoesNothing : Prop :=
  ∀ (w : Wire) (s : State), s.running → w = none ∨ w = some [] →
    exec (.onFrame w) s = .next { s with
      responses := s.responses ++ [{ status := .nothingArrived, outputs := [.wire none] }] }

/-- R210, R256: accepting into a full log faults with F_LOG_FULL: nothing appended, no ACK, no draw. -/
def Obligations.OnFrameIntoAFullLogHalts : Prop :=
  ∀ (b : Bytes) (f : Frame) (s : State), s.running → decodeFrame b = .valid f → f.kind = .data →
    f.seqNum = s.expected → s.cfg.logCapacity = some s.log.length →
    exec (.onFrame (some b)) s = .next { s with
      fault := 0x08, responses := s.responses ++ [{ status := .fault, outputs := [] }] }

/-- R30, R64: the log is append-only: only ON_FRAME appends, one entry at most, and only RESET empties it. -/
def Obligations.LogIsAppendOnly : Prop :=
  ∀ (i : Instr) (s t : State), exec i s = .next t →
    t.log = s.log ∨ (∃ w p, i = .onFrame w ∧ t.log = s.log ++ [p]) ∨ (i = .reset ∧ t.log = [])

/-! ### Control -/

/-- R231: TICK advances `now` by its operand and checks no timer. -/
def Obligations.TickAdvancesNow : Prop :=
  ∀ (d : BitVec 32) (s : State), s.running →
    exec (.tick d) s = .next { s with
      now := s.now + d.toNat, responses := s.responses ++ [{ status := .ok, outputs := [] }] }

/-- R233, R39, R257: READ answers, halted or not, the value of the register its selector names, and writes no state. The
registers held as unbounded naturals are stated where their value fits 64 bits, and MAX_SEQ where SEQ_BITS is at most 8;
beyond that the value is free (assumptions 11 and 12). -/
def Obligations.ReadAnswersTheRegister : Prop :=
  ∀ (sel : Selector) (s : State),
    exec (.read sel) s = .next { s with
      responses := s.responses ++ [{ status := .ok, outputs := [.word64 (readValue s sel)] }] } ∧
    (readValue s .base).toNat = s.base.toNat ∧ (readValue s .nextSeq).toNat = s.nextSeq.toNat ∧
    (readValue s .outstanding).toNat = seqDist (maxSeq s.cfg) s.nextSeq s.base ∧
    (readValue s .timerRunning).toNat = (if s.timerRunning = true then 1 else 0) ∧
    (s.timerStart < 2 ^ 64 → (readValue s .timerStart).toNat = s.timerStart) ∧
    (s.now < 2 ^ 64 → (readValue s .now).toNat = s.now) ∧
    (readValue s .expected).toNat = s.expected.toNat ∧
    (s.log.length < 2 ^ 64 → (readValue s .logLen).toNat = s.log.length) ∧
    (readValue s .chState).toNat = (if s.chState = .bad then 1 else 0) ∧
    (s.txCount < 2 ^ 64 → (readValue s .txCount).toNat = s.txCount) ∧
    (s.retxCount < 2 ^ 64 → (readValue s .retxCount).toNat = s.retxCount) ∧
    (readValue s .fault).toNat = s.fault.toNat ∧
    (readValue s .phase).toNat =
      (if s.timerRunning = true then 1 else if s.base = s.nextSeq then 0 else 2) ∧
    (readValue s .windowSize).toNat = s.cfg.windowSize.toNat ∧
    (readValue s .seqBits).toNat = s.cfg.seqBits.toNat ∧
    (s.cfg.seqBits.toNat ≤ 8 → (readValue s .maxSeq).toNat = 2 ^ s.cfg.seqBits.toNat) ∧
    (s.cfg.timeout < 2 ^ 64 → (readValue s .timeout).toNat = s.cfg.timeout) ∧
    (readValue s .channelMode).toNat = s.cfg.modeCode.toNat ∧
    (readValue s .senderTag).toNat = s.cfg.senderTag.toNat ∧
    (readValue s .receiverTag).toNat = s.cfg.receiverTag.toNat ∧
    (readValue s .maxPayload).toNat = s.cfg.maxPayload.toNat ∧
    (s.cfg.logCapacity = none → (readValue s .logCapacity).toNat = 2 ^ 64 - 1) ∧
    (∀ n, s.cfg.logCapacity = some n → n < 2 ^ 64 → (readValue s .logCapacity).toNat = n)

/-- R234: READ_BUF answers the frame in a slot, and NO_ENTRY for an empty slot and for slot numbers from MAX_SEQ up. -/
def Obligations.ReadBufAnswersTheSlot : Prop :=
  ∀ (q : Byte) (s : State), s.running →
    (∀ f, q.toNat < maxSeq s.cfg → bufRead q.toNat s.buf = some f → exec (.readBuf q) s = .next { s with
      responses := s.responses ++ [{ status := .ok, outputs := [.frame f] }] }) ∧
    (maxSeq s.cfg ≤ q.toNat ∨ bufRead q.toNat s.buf = none → exec (.readBuf q) s = .next { s with
      responses := s.responses ++ [{ status := .noEntry, outputs := [] }] })

/-- R235: READ_LOG answers an entry of the log, and NO_ENTRY from its length up. -/
def Obligations.ReadLogAnswersTheEntry : Prop :=
  ∀ (n : BitVec 16) (s : State), s.running →
    (∀ p, s.log[n.toNat]? = some p → exec (.readLog n) s = .next { s with
      responses := s.responses ++ [{ status := .ok, outputs := [.wire (some p)] }] }) ∧
    (s.log.length ≤ n.toNat → exec (.readLog n) s = .next { s with
      responses := s.responses ++ [{ status := .noEntry, outputs := [] }] })

/-- R230, R280, R40: RESET samples the configuration port and gives every register its reset value, halted or not; an
illegal configuration sets F_CONFIG_INVALID and answers FAULT. -/
def Obligations.ResetGivesTheResetValues : Prop :=
  ∀ s : State, ∃ t : State,
    exec .reset s = .next t ∧
    t.cfg = s.cfgPort ∧ t.base = 0 ∧ t.nextSeq = 0 ∧ (∀ q, bufRead q t.buf = none) ∧ t.timerRunning = false ∧
    t.timerStart = 0 ∧ t.txCount = 0 ∧ t.retxCount = 0 ∧ t.expected = 0 ∧ t.log = [] ∧ t.chState = .good ∧
    t.dr = none ∧ t.now = 0 ∧
    (cfgLegal s.cfgPort = true → t.fault = 0 ∧
      t.responses = s.responses ++ [{ status := .ok, outputs := [] }]) ∧
    (cfgLegal s.cfgPort = false → t.fault = 0x10 ∧
      t.responses = s.responses ++ [{ status := .fault, outputs := [] }]) ∧
    t.cfgPort = s.cfgPort ∧ t.commands = s.commands ∧ t.entropy = s.entropy

/-- R22: the record is legal iff its fields are in their ranges. -/
def Obligations.ConfigurationLegality : Prop :=
  ∀ c : Cfg, cfgLegal c = true ↔
    1 ≤ c.seqBits.toNat ∧ c.seqBits.toNat ≤ 8 ∧ 1 ≤ c.windowSize.toNat ∧
    c.windowSize.toNat < 2 ^ c.seqBits.toNat ∧ c.modeCode.toNat ≤ 4 ∧ c.maxPayload.toNat ≤ 65527 ∧
    (∀ p ∈ [c.probP, c.probR, c.probK, c.probH, c.bscP, c.probLoss], 0 ≤ p ∧ p ≤ 1)

/-! ### Whole-machine rules -/

/-- R23-R32, R34, R35: which commands write each register of R20, and which touch the entropy port (R141). No command
writes the configuration port or takes another command. -/
def Obligations.RegisterWriters : Prop :=
  ∀ (i : Instr) (s t : State), exec i s = .next t →
    (t.cfg ≠ s.cfg → i = .reset) ∧
    (t.base ≠ s.base → i = .reset ∨ (∃ a, i = .onAck a) ∨ ∃ w, i = .ackIn w) ∧
    (t.nextSeq ≠ s.nextSeq → i = .reset ∨ ∃ p, i = .submit p) ∧
    (t.buf ≠ s.buf → i = .reset ∨ (∃ p, i = .submit p) ∨ (∃ a, i = .onAck a) ∨ ∃ w, i = .ackIn w) ∧
    (t.timerRunning ≠ s.timerRunning →
      i = .reset ∨ i = .isTimeout ∨ i = .retransmit ∨ (∃ p, i = .submit p) ∨ (∃ a, i = .onAck a) ∨
        ∃ w, i = .ackIn w) ∧
    (t.timerStart ≠ s.timerStart →
      i = .reset ∨ i = .retransmit ∨ (∃ p, i = .submit p) ∨ (∃ a, i = .onAck a) ∨ ∃ w, i = .ackIn w) ∧
    (t.txCount ≠ s.txCount → i = .reset ∨ ∃ p, i = .submit p) ∧
    (t.retxCount ≠ s.retxCount → i = .reset ∨ i = .retransmit) ∧
    (t.expected ≠ s.expected → i = .reset ∨ ∃ w, i = .onFrame w) ∧
    (t.log ≠ s.log → i = .reset ∨ ∃ w, i = .onFrame w) ∧
    (t.chState ≠ s.chState →
      i = .reset ∨ ((s.cfg.modeCode = 1 ∨ s.cfg.modeCode = 3) ∧
        (i = .retransmit ∨ (∃ w, i = .propagate w) ∨ (∃ p, i = .submit p) ∨ ∃ w, i = .onFrame w))) ∧
    (t.dr ≠ s.dr → i = .reset ∨ ∃ b, i = .decode b) ∧
    (t.now ≠ s.now → i = .reset ∨ ∃ d, i = .tick d) ∧
    (t.fault ≠ s.fault →
      i = .reset ∨ i = .isCorrupt ∨ (∃ a, i = .onAck a) ∨ (∃ w, i = .ackIn w) ∨ ∃ w, i = .onFrame w) ∧
    (t.entropy ≠ s.entropy →
      (∃ w, i = .propagateBsc w) ∨ (s.cfg.modeCode ≠ 0 ∧
        (i = .retransmit ∨ (∃ w, i = .propagate w) ∨ (∃ p, i = .submit p) ∨ ∃ w, i = .onFrame w))) ∧
    t.cfgPort = s.cfgPort ∧ t.commands = s.commands

/-- R35, R256: a fault bit, once set, stays set under every command but RESET, and is newly set only by its own
condition: bit 0 by no legal command and in a step only by an illegal one, bit 1 by IS_CORRUPT without a decode result,
bit 2 by an ACK number beyond `next_seq`, bit 3 by a frame accepted into a full log, bit 4 by RESET with an illegal record;
the reserved bits by nothing. -/
def Obligations.FaultBitsAreSticky : Prop :=
  (∀ (i : Instr) (s t : State), exec i s = .next t →
    (i ≠ .reset → s.fault &&& t.fault = s.fault) ∧
    (s.fault.getLsbD 0 = false → t.fault.getLsbD 0 = false) ∧
    (s.fault.getLsbD 1 = false → t.fault.getLsbD 1 = true → i = .isCorrupt ∧ s.dr = none) ∧
    (s.fault.getLsbD 2 = false → t.fault.getLsbD 2 = true →
      ∃ a : Byte,
        (i = .onAck a ∨ ∃ b f, i = .ackIn (some b) ∧ decodeFrame b = .valid f ∧ f.kind = .ack ∧ f.seqNum = a) ∧
        a.toNat < maxSeq s.cfg ∧ outstanding s < seqDist (maxSeq s.cfg) a s.base ∧
        seqDist (maxSeq s.cfg) a s.base ≤ maxSeq s.cfg / 2) ∧
    (s.fault.getLsbD 3 = false → t.fault.getLsbD 3 = true →
      ∃ b f, i = .onFrame (some b) ∧ decodeFrame b = .valid f ∧ f.kind = .data ∧ f.seqNum = s.expected ∧
        s.cfg.logCapacity = some s.log.length) ∧
    (s.fault.getLsbD 4 = false → t.fault.getLsbD 4 = true → i = .reset ∧ cfgLegal s.cfgPort = false) ∧
    (∀ k, 5 ≤ k → s.fault.getLsbD k = false → t.fault.getLsbD k = false)) ∧
  (∀ s t : State, step s = .next t → s.fault.getLsbD 0 = false → t.fault.getLsbD 0 = true →
    ∃ cmd rest e, s.commands = cmd :: rest ∧ decode cmd = .error e)

/-- R38, R282: the state after power-on meets the invariant, with every register at the value R40 gives it. -/
def Obligations.ResetStateMeetsTheInvariant : Prop :=
  State.reset.inv ∧ resetRegisters State.reset = State.reset

/-- R38, R35, R63, R180, R281: every step keeps the invariant: the reserved fault bits read 0, the sequence registers
are in range, the buffer is canonical, the log fits, and while no fault bit is set the configuration is legal and the
window invariants (I1) to (I4) hold, whatever command the host issues. -/
def Obligations.EveryStepKeepsTheInvariant : Prop :=
  ∀ s t : State, s.inv → step s = .next t → t.inv

/-- R236, R237, R290: over the ideal channel the reference driver delivers every list of payloads in order, one
iteration a payload, with no retransmission, whatever ticks the host lets pass in each iteration, and the run ends; from
every running state with an empty window and log whose two cursors agree. The driver is the model's writing of the host's
side (assumption 20). -/
def Obligations.IdealLinkDeliversInOrder : Prop :=
  ∀ (payloads : List Bytes) (deltas : List (BitVec 32)) (s : State), s.running → s.seqsInRange → s.cfg.modeCode = 0 →
    s.base = s.nextSeq → s.expected = s.nextSeq → s.buf = [] → s.timerRunning = false → s.log = [] →
    (∀ n, s.cfg.logCapacity = some n → payloads.length ≤ n) →
    (∀ p ∈ payloads, p.length ≤ s.cfg.maxPayload.toNat) → deltas.length = payloads.length →
    ∃ t : State, driverRun payloads deltas 0 s = some (.ended, payloads.length, t) ∧
      t.log = payloads ∧ t.retxCount = s.retxCount ∧ t.fault = 0 ∧ t.base = t.nextSeq ∧ t.timerRunning = false
end

