-- ==== Sys2Proof/Laws/State.lean ====
section
/-! SUPPORT. One lemma per field per state update, each true by computation: a later proof reads a field of an updated
state without unfolding the update. -/

namespace Sys2Proof.Machine

/-! ### `respond` -/

@[simp] theorem respond_cfg (st : Status) (outs : List Output) (s : State) : (respond st outs s).cfg = s.cfg := rfl
@[simp] theorem respond_base (st : Status) (outs : List Output) (s : State) : (respond st outs s).base = s.base := rfl
@[simp] theorem respond_nextSeq (st : Status) (outs : List Output) (s : State) :
    (respond st outs s).nextSeq = s.nextSeq := rfl
@[simp] theorem respond_buf (st : Status) (outs : List Output) (s : State) : (respond st outs s).buf = s.buf := rfl
@[simp] theorem respond_timerRunning (st : Status) (outs : List Output) (s : State) :
    (respond st outs s).timerRunning = s.timerRunning := rfl
@[simp] theorem respond_timerStart (st : Status) (outs : List Output) (s : State) :
    (respond st outs s).timerStart = s.timerStart := rfl
@[simp] theorem respond_txCount (st : Status) (outs : List Output) (s : State) :
    (respond st outs s).txCount = s.txCount := rfl
@[simp] theorem respond_retxCount (st : Status) (outs : List Output) (s : State) :
    (respond st outs s).retxCount = s.retxCount := rfl
@[simp] theorem respond_expected (st : Status) (outs : List Output) (s : State) :
    (respond st outs s).expected = s.expected := rfl
@[simp] theorem respond_log (st : Status) (outs : List Output) (s : State) : (respond st outs s).log = s.log := rfl
@[simp] theorem respond_chState (st : Status) (outs : List Output) (s : State) :
    (respond st outs s).chState = s.chState := rfl
@[simp] theorem respond_dr (st : Status) (outs : List Output) (s : State) : (respond st outs s).dr = s.dr := rfl
@[simp] theorem respond_now (st : Status) (outs : List Output) (s : State) : (respond st outs s).now = s.now := rfl
@[simp] theorem respond_fault (st : Status) (outs : List Output) (s : State) :
    (respond st outs s).fault = s.fault := rfl
@[simp] theorem respond_cfgPort (st : Status) (outs : List Output) (s : State) :
    (respond st outs s).cfgPort = s.cfgPort := rfl
@[simp] theorem respond_commands (st : Status) (outs : List Output) (s : State) :
    (respond st outs s).commands = s.commands := rfl
@[simp] theorem respond_responses (st : Status) (outs : List Output) (s : State) :
    (respond st outs s).responses = s.responses ++ [{ status := st, outputs := outs }] := rfl
@[simp] theorem respond_entropy (st : Status) (outs : List Output) (s : State) :
    (respond st outs s).entropy = s.entropy := rfl

/-! ### `setFault` -/

@[simp] theorem setFault_cfg (bit : BitVec 8) (s : State) : (setFault bit s).cfg = s.cfg := rfl
@[simp] theorem setFault_base (bit : BitVec 8) (s : State) : (setFault bit s).base = s.base := rfl
@[simp] theorem setFault_nextSeq (bit : BitVec 8) (s : State) : (setFault bit s).nextSeq = s.nextSeq := rfl
@[simp] theorem setFault_buf (bit : BitVec 8) (s : State) : (setFault bit s).buf = s.buf := rfl
@[simp] theorem setFault_timerRunning (bit : BitVec 8) (s : State) :
    (setFault bit s).timerRunning = s.timerRunning := rfl
@[simp] theorem setFault_timerStart (bit : BitVec 8) (s : State) : (setFault bit s).timerStart = s.timerStart := rfl
@[simp] theorem setFault_txCount (bit : BitVec 8) (s : State) : (setFault bit s).txCount = s.txCount := rfl
@[simp] theorem setFault_retxCount (bit : BitVec 8) (s : State) : (setFault bit s).retxCount = s.retxCount := rfl
@[simp] theorem setFault_expected (bit : BitVec 8) (s : State) : (setFault bit s).expected = s.expected := rfl
@[simp] theorem setFault_log (bit : BitVec 8) (s : State) : (setFault bit s).log = s.log := rfl
@[simp] theorem setFault_chState (bit : BitVec 8) (s : State) : (setFault bit s).chState = s.chState := rfl
@[simp] theorem setFault_dr (bit : BitVec 8) (s : State) : (setFault bit s).dr = s.dr := rfl
@[simp] theorem setFault_now (bit : BitVec 8) (s : State) : (setFault bit s).now = s.now := rfl
@[simp] theorem setFault_fault (bit : BitVec 8) (s : State) : (setFault bit s).fault = s.fault ||| bit := rfl
@[simp] theorem setFault_cfgPort (bit : BitVec 8) (s : State) : (setFault bit s).cfgPort = s.cfgPort := rfl
@[simp] theorem setFault_commands (bit : BitVec 8) (s : State) : (setFault bit s).commands = s.commands := rfl
@[simp] theorem setFault_responses (bit : BitVec 8) (s : State) : (setFault bit s).responses = s.responses := rfl
@[simp] theorem setFault_entropy (bit : BitVec 8) (s : State) : (setFault bit s).entropy = s.entropy := rfl

/-! ### `raiseFault` -/

@[simp] theorem raiseFault_cfg (bit : BitVec 8) (s : State) : (raiseFault bit s).cfg = s.cfg := rfl
@[simp] theorem raiseFault_base (bit : BitVec 8) (s : State) : (raiseFault bit s).base = s.base := rfl
@[simp] theorem raiseFault_nextSeq (bit : BitVec 8) (s : State) : (raiseFault bit s).nextSeq = s.nextSeq := rfl
@[simp] theorem raiseFault_buf (bit : BitVec 8) (s : State) : (raiseFault bit s).buf = s.buf := rfl
@[simp] theorem raiseFault_timerRunning (bit : BitVec 8) (s : State) :
    (raiseFault bit s).timerRunning = s.timerRunning := rfl
@[simp] theorem raiseFault_timerStart (bit : BitVec 8) (s : State) : (raiseFault bit s).timerStart = s.timerStart := rfl
@[simp] theorem raiseFault_txCount (bit : BitVec 8) (s : State) : (raiseFault bit s).txCount = s.txCount := rfl
@[simp] theorem raiseFault_retxCount (bit : BitVec 8) (s : State) : (raiseFault bit s).retxCount = s.retxCount := rfl
@[simp] theorem raiseFault_expected (bit : BitVec 8) (s : State) : (raiseFault bit s).expected = s.expected := rfl
@[simp] theorem raiseFault_log (bit : BitVec 8) (s : State) : (raiseFault bit s).log = s.log := rfl
@[simp] theorem raiseFault_chState (bit : BitVec 8) (s : State) : (raiseFault bit s).chState = s.chState := rfl
@[simp] theorem raiseFault_dr (bit : BitVec 8) (s : State) : (raiseFault bit s).dr = s.dr := rfl
@[simp] theorem raiseFault_now (bit : BitVec 8) (s : State) : (raiseFault bit s).now = s.now := rfl
@[simp] theorem raiseFault_fault (bit : BitVec 8) (s : State) : (raiseFault bit s).fault = s.fault ||| bit := rfl
@[simp] theorem raiseFault_cfgPort (bit : BitVec 8) (s : State) : (raiseFault bit s).cfgPort = s.cfgPort := rfl
@[simp] theorem raiseFault_commands (bit : BitVec 8) (s : State) : (raiseFault bit s).commands = s.commands := rfl
@[simp] theorem raiseFault_responses (bit : BitVec 8) (s : State) :
    (raiseFault bit s).responses = s.responses ++ [{ status := .fault, outputs := [] }] := rfl
@[simp] theorem raiseFault_entropy (bit : BitVec 8) (s : State) : (raiseFault bit s).entropy = s.entropy := rfl

/-! ### `putCommand` -/

@[simp] theorem putCommand_cfg (cmd : Bytes) (s : State) : (putCommand cmd s).cfg = s.cfg := rfl
@[simp] theorem putCommand_base (cmd : Bytes) (s : State) : (putCommand cmd s).base = s.base := rfl
@[simp] theorem putCommand_nextSeq (cmd : Bytes) (s : State) : (putCommand cmd s).nextSeq = s.nextSeq := rfl
@[simp] theorem putCommand_buf (cmd : Bytes) (s : State) : (putCommand cmd s).buf = s.buf := rfl
@[simp] theorem putCommand_timerRunning (cmd : Bytes) (s : State) :
    (putCommand cmd s).timerRunning = s.timerRunning := rfl
@[simp] theorem putCommand_timerStart (cmd : Bytes) (s : State) : (putCommand cmd s).timerStart = s.timerStart := rfl
@[simp] theorem putCommand_txCount (cmd : Bytes) (s : State) : (putCommand cmd s).txCount = s.txCount := rfl
@[simp] theorem putCommand_retxCount (cmd : Bytes) (s : State) : (putCommand cmd s).retxCount = s.retxCount := rfl
@[simp] theorem putCommand_expected (cmd : Bytes) (s : State) : (putCommand cmd s).expected = s.expected := rfl
@[simp] theorem putCommand_log (cmd : Bytes) (s : State) : (putCommand cmd s).log = s.log := rfl
@[simp] theorem putCommand_chState (cmd : Bytes) (s : State) : (putCommand cmd s).chState = s.chState := rfl
@[simp] theorem putCommand_dr (cmd : Bytes) (s : State) : (putCommand cmd s).dr = s.dr := rfl
@[simp] theorem putCommand_now (cmd : Bytes) (s : State) : (putCommand cmd s).now = s.now := rfl
@[simp] theorem putCommand_fault (cmd : Bytes) (s : State) : (putCommand cmd s).fault = s.fault := rfl
@[simp] theorem putCommand_cfgPort (cmd : Bytes) (s : State) : (putCommand cmd s).cfgPort = s.cfgPort := rfl
@[simp] theorem putCommand_commands (cmd : Bytes) (s : State) : (putCommand cmd s).commands = cmd :: s.commands := rfl
@[simp] theorem putCommand_responses (cmd : Bytes) (s : State) : (putCommand cmd s).responses = s.responses := rfl
@[simp] theorem putCommand_entropy (cmd : Bytes) (s : State) : (putCommand cmd s).entropy = s.entropy := rfl

/-! ### `dropCommand` -/

@[simp] theorem dropCommand_cfg (s : State) : (dropCommand s).cfg = s.cfg := rfl
@[simp] theorem dropCommand_base (s : State) : (dropCommand s).base = s.base := rfl
@[simp] theorem dropCommand_nextSeq (s : State) : (dropCommand s).nextSeq = s.nextSeq := rfl
@[simp] theorem dropCommand_buf (s : State) : (dropCommand s).buf = s.buf := rfl
@[simp] theorem dropCommand_timerRunning (s : State) : (dropCommand s).timerRunning = s.timerRunning := rfl
@[simp] theorem dropCommand_timerStart (s : State) : (dropCommand s).timerStart = s.timerStart := rfl
@[simp] theorem dropCommand_txCount (s : State) : (dropCommand s).txCount = s.txCount := rfl
@[simp] theorem dropCommand_retxCount (s : State) : (dropCommand s).retxCount = s.retxCount := rfl
@[simp] theorem dropCommand_expected (s : State) : (dropCommand s).expected = s.expected := rfl
@[simp] theorem dropCommand_log (s : State) : (dropCommand s).log = s.log := rfl
@[simp] theorem dropCommand_chState (s : State) : (dropCommand s).chState = s.chState := rfl
@[simp] theorem dropCommand_dr (s : State) : (dropCommand s).dr = s.dr := rfl
@[simp] theorem dropCommand_now (s : State) : (dropCommand s).now = s.now := rfl
@[simp] theorem dropCommand_fault (s : State) : (dropCommand s).fault = s.fault := rfl
@[simp] theorem dropCommand_cfgPort (s : State) : (dropCommand s).cfgPort = s.cfgPort := rfl
@[simp] theorem dropCommand_commands (s : State) : (dropCommand s).commands = s.commands.tail := rfl
@[simp] theorem dropCommand_responses (s : State) : (dropCommand s).responses = s.responses := rfl
@[simp] theorem dropCommand_entropy (s : State) : (dropCommand s).entropy = s.entropy := rfl

/-! ### `logAppend` -/

@[simp] theorem logAppend_cfg (p : Bytes) (s : State) : (logAppend p s).cfg = s.cfg := rfl
@[simp] theorem logAppend_base (p : Bytes) (s : State) : (logAppend p s).base = s.base := rfl
@[simp] theorem logAppend_nextSeq (p : Bytes) (s : State) : (logAppend p s).nextSeq = s.nextSeq := rfl
@[simp] theorem logAppend_buf (p : Bytes) (s : State) : (logAppend p s).buf = s.buf := rfl
@[simp] theorem logAppend_timerRunning (p : Bytes) (s : State) : (logAppend p s).timerRunning = s.timerRunning := rfl
@[simp] theorem logAppend_timerStart (p : Bytes) (s : State) : (logAppend p s).timerStart = s.timerStart := rfl
@[simp] theorem logAppend_txCount (p : Bytes) (s : State) : (logAppend p s).txCount = s.txCount := rfl
@[simp] theorem logAppend_retxCount (p : Bytes) (s : State) : (logAppend p s).retxCount = s.retxCount := rfl
@[simp] theorem logAppend_expected (p : Bytes) (s : State) : (logAppend p s).expected = s.expected := rfl
@[simp] theorem logAppend_log (p : Bytes) (s : State) : (logAppend p s).log = s.log ++ [p] := rfl
@[simp] theorem logAppend_chState (p : Bytes) (s : State) : (logAppend p s).chState = s.chState := rfl
@[simp] theorem logAppend_dr (p : Bytes) (s : State) : (logAppend p s).dr = s.dr := rfl
@[simp] theorem logAppend_now (p : Bytes) (s : State) : (logAppend p s).now = s.now := rfl
@[simp] theorem logAppend_fault (p : Bytes) (s : State) : (logAppend p s).fault = s.fault := rfl
@[simp] theorem logAppend_cfgPort (p : Bytes) (s : State) : (logAppend p s).cfgPort = s.cfgPort := rfl
@[simp] theorem logAppend_commands (p : Bytes) (s : State) : (logAppend p s).commands = s.commands := rfl
@[simp] theorem logAppend_responses (p : Bytes) (s : State) : (logAppend p s).responses = s.responses := rfl
@[simp] theorem logAppend_entropy (p : Bytes) (s : State) : (logAppend p s).entropy = s.entropy := rfl

/-! ### `startTimer` -/

@[simp] theorem startTimer_cfg (s : State) : (startTimer s).cfg = s.cfg := rfl
@[simp] theorem startTimer_base (s : State) : (startTimer s).base = s.base := rfl
@[simp] theorem startTimer_nextSeq (s : State) : (startTimer s).nextSeq = s.nextSeq := rfl
@[simp] theorem startTimer_buf (s : State) : (startTimer s).buf = s.buf := rfl
@[simp] theorem startTimer_timerRunning (s : State) : (startTimer s).timerRunning = true := rfl
@[simp] theorem startTimer_timerStart (s : State) : (startTimer s).timerStart = s.now := rfl
@[simp] theorem startTimer_txCount (s : State) : (startTimer s).txCount = s.txCount := rfl
@[simp] theorem startTimer_retxCount (s : State) : (startTimer s).retxCount = s.retxCount := rfl
@[simp] theorem startTimer_expected (s : State) : (startTimer s).expected = s.expected := rfl
@[simp] theorem startTimer_log (s : State) : (startTimer s).log = s.log := rfl
@[simp] theorem startTimer_chState (s : State) : (startTimer s).chState = s.chState := rfl
@[simp] theorem startTimer_dr (s : State) : (startTimer s).dr = s.dr := rfl
@[simp] theorem startTimer_now (s : State) : (startTimer s).now = s.now := rfl
@[simp] theorem startTimer_fault (s : State) : (startTimer s).fault = s.fault := rfl
@[simp] theorem startTimer_cfgPort (s : State) : (startTimer s).cfgPort = s.cfgPort := rfl
@[simp] theorem startTimer_commands (s : State) : (startTimer s).commands = s.commands := rfl
@[simp] theorem startTimer_responses (s : State) : (startTimer s).responses = s.responses := rfl
@[simp] theorem startTimer_entropy (s : State) : (startTimer s).entropy = s.entropy := rfl

/-! ### `stopTimer` -/

@[simp] theorem stopTimer_cfg (s : State) : (stopTimer s).cfg = s.cfg := rfl
@[simp] theorem stopTimer_base (s : State) : (stopTimer s).base = s.base := rfl
@[simp] theorem stopTimer_nextSeq (s : State) : (stopTimer s).nextSeq = s.nextSeq := rfl
@[simp] theorem stopTimer_buf (s : State) : (stopTimer s).buf = s.buf := rfl
@[simp] theorem stopTimer_timerRunning (s : State) : (stopTimer s).timerRunning = false := rfl
@[simp] theorem stopTimer_timerStart (s : State) : (stopTimer s).timerStart = s.timerStart := rfl
@[simp] theorem stopTimer_txCount (s : State) : (stopTimer s).txCount = s.txCount := rfl
@[simp] theorem stopTimer_retxCount (s : State) : (stopTimer s).retxCount = s.retxCount := rfl
@[simp] theorem stopTimer_expected (s : State) : (stopTimer s).expected = s.expected := rfl
@[simp] theorem stopTimer_log (s : State) : (stopTimer s).log = s.log := rfl
@[simp] theorem stopTimer_chState (s : State) : (stopTimer s).chState = s.chState := rfl
@[simp] theorem stopTimer_dr (s : State) : (stopTimer s).dr = s.dr := rfl
@[simp] theorem stopTimer_now (s : State) : (stopTimer s).now = s.now := rfl
@[simp] theorem stopTimer_fault (s : State) : (stopTimer s).fault = s.fault := rfl
@[simp] theorem stopTimer_cfgPort (s : State) : (stopTimer s).cfgPort = s.cfgPort := rfl
@[simp] theorem stopTimer_commands (s : State) : (stopTimer s).commands = s.commands := rfl
@[simp] theorem stopTimer_responses (s : State) : (stopTimer s).responses = s.responses := rfl
@[simp] theorem stopTimer_entropy (s : State) : (stopTimer s).entropy = s.entropy := rfl

/-! ### `afterCrossing` -/

@[simp] theorem afterCrossing_cfg (x : Crossing) (s : State) : (afterCrossing x s).cfg = s.cfg := rfl
@[simp] theorem afterCrossing_base (x : Crossing) (s : State) : (afterCrossing x s).base = s.base := rfl
@[simp] theorem afterCrossing_nextSeq (x : Crossing) (s : State) : (afterCrossing x s).nextSeq = s.nextSeq := rfl
@[simp] theorem afterCrossing_buf (x : Crossing) (s : State) : (afterCrossing x s).buf = s.buf := rfl
@[simp] theorem afterCrossing_timerRunning (x : Crossing) (s : State) :
    (afterCrossing x s).timerRunning = s.timerRunning := rfl
@[simp] theorem afterCrossing_timerStart (x : Crossing) (s : State) :
    (afterCrossing x s).timerStart = s.timerStart := rfl
@[simp] theorem afterCrossing_txCount (x : Crossing) (s : State) : (afterCrossing x s).txCount = s.txCount := rfl
@[simp] theorem afterCrossing_retxCount (x : Crossing) (s : State) : (afterCrossing x s).retxCount = s.retxCount := rfl
@[simp] theorem afterCrossing_expected (x : Crossing) (s : State) : (afterCrossing x s).expected = s.expected := rfl
@[simp] theorem afterCrossing_log (x : Crossing) (s : State) : (afterCrossing x s).log = s.log := rfl
@[simp] theorem afterCrossing_chState (x : Crossing) (s : State) : (afterCrossing x s).chState = x.chState := rfl
@[simp] theorem afterCrossing_dr (x : Crossing) (s : State) : (afterCrossing x s).dr = s.dr := rfl
@[simp] theorem afterCrossing_now (x : Crossing) (s : State) : (afterCrossing x s).now = s.now := rfl
@[simp] theorem afterCrossing_fault (x : Crossing) (s : State) : (afterCrossing x s).fault = s.fault := rfl
@[simp] theorem afterCrossing_cfgPort (x : Crossing) (s : State) : (afterCrossing x s).cfgPort = s.cfgPort := rfl
@[simp] theorem afterCrossing_commands (x : Crossing) (s : State) : (afterCrossing x s).commands = s.commands := rfl
@[simp] theorem afterCrossing_responses (x : Crossing) (s : State) : (afterCrossing x s).responses = s.responses := rfl
@[simp] theorem afterCrossing_entropy (x : Crossing) (s : State) : (afterCrossing x s).entropy = x.entropy := rfl

/-! ### `acceptPayload` -/

@[simp] theorem acceptPayload_cfg (p : Bytes) (s : State) : (acceptPayload p s).cfg = s.cfg := rfl
@[simp] theorem acceptPayload_base (p : Bytes) (s : State) : (acceptPayload p s).base = s.base := rfl
@[simp] theorem acceptPayload_nextSeq (p : Bytes) (s : State) : (acceptPayload p s).nextSeq = s.nextSeq := rfl
@[simp] theorem acceptPayload_buf (p : Bytes) (s : State) : (acceptPayload p s).buf = s.buf := rfl
@[simp] theorem acceptPayload_timerRunning (p : Bytes) (s : State) :
    (acceptPayload p s).timerRunning = s.timerRunning := rfl
@[simp] theorem acceptPayload_timerStart (p : Bytes) (s : State) : (acceptPayload p s).timerStart = s.timerStart := rfl
@[simp] theorem acceptPayload_txCount (p : Bytes) (s : State) : (acceptPayload p s).txCount = s.txCount := rfl
@[simp] theorem acceptPayload_retxCount (p : Bytes) (s : State) : (acceptPayload p s).retxCount = s.retxCount := rfl
@[simp] theorem acceptPayload_expected (p : Bytes) (s : State) :
    (acceptPayload p s).expected = seqNext (maxSeq s.cfg) s.expected := rfl
@[simp] theorem acceptPayload_log (p : Bytes) (s : State) : (acceptPayload p s).log = s.log ++ [p] := rfl
@[simp] theorem acceptPayload_chState (p : Bytes) (s : State) : (acceptPayload p s).chState = s.chState := rfl
@[simp] theorem acceptPayload_dr (p : Bytes) (s : State) : (acceptPayload p s).dr = s.dr := rfl
@[simp] theorem acceptPayload_now (p : Bytes) (s : State) : (acceptPayload p s).now = s.now := rfl
@[simp] theorem acceptPayload_fault (p : Bytes) (s : State) : (acceptPayload p s).fault = s.fault := rfl
@[simp] theorem acceptPayload_cfgPort (p : Bytes) (s : State) : (acceptPayload p s).cfgPort = s.cfgPort := rfl
@[simp] theorem acceptPayload_commands (p : Bytes) (s : State) : (acceptPayload p s).commands = s.commands := rfl
@[simp] theorem acceptPayload_responses (p : Bytes) (s : State) : (acceptPayload p s).responses = s.responses := rfl
@[simp] theorem acceptPayload_entropy (p : Bytes) (s : State) : (acceptPayload p s).entropy = s.entropy := rfl

/-! ### `resetRegisters` -/

@[simp] theorem resetRegisters_cfg (s : State) : (resetRegisters s).cfg = s.cfgPort := rfl
@[simp] theorem resetRegisters_base (s : State) : (resetRegisters s).base = 0 := rfl
@[simp] theorem resetRegisters_nextSeq (s : State) : (resetRegisters s).nextSeq = 0 := rfl
@[simp] theorem resetRegisters_buf (s : State) : (resetRegisters s).buf = [] := rfl
@[simp] theorem resetRegisters_timerRunning (s : State) : (resetRegisters s).timerRunning = false := rfl
@[simp] theorem resetRegisters_timerStart (s : State) : (resetRegisters s).timerStart = 0 := rfl
@[simp] theorem resetRegisters_txCount (s : State) : (resetRegisters s).txCount = 0 := rfl
@[simp] theorem resetRegisters_retxCount (s : State) : (resetRegisters s).retxCount = 0 := rfl
@[simp] theorem resetRegisters_expected (s : State) : (resetRegisters s).expected = 0 := rfl
@[simp] theorem resetRegisters_log (s : State) : (resetRegisters s).log = [] := rfl
@[simp] theorem resetRegisters_chState (s : State) : (resetRegisters s).chState = .good := rfl
@[simp] theorem resetRegisters_dr (s : State) : (resetRegisters s).dr = none := rfl
@[simp] theorem resetRegisters_now (s : State) : (resetRegisters s).now = 0 := rfl
@[simp] theorem resetRegisters_fault (s : State) : (resetRegisters s).fault = 0 := rfl
@[simp] theorem resetRegisters_cfgPort (s : State) : (resetRegisters s).cfgPort = s.cfgPort := rfl
@[simp] theorem resetRegisters_commands (s : State) : (resetRegisters s).commands = s.commands := rfl
@[simp] theorem resetRegisters_responses (s : State) : (resetRegisters s).responses = s.responses := rfl
@[simp] theorem resetRegisters_entropy (s : State) : (resetRegisters s).entropy = s.entropy := rfl

end Sys2Proof.Machine
end

