-- ==== Sys2Proof/Laws/Channel.lean ====
section
/-! SUPPORT. What one draw, one flip and the two bit loops of the Channel Model do. -/

namespace Sys2Proof.Machine

/-! ### Draws (R141) -/

@[simp] theorem drawResult_zero (e : Entropy) : drawResult 0 e = false := by simp [drawResult]

@[simp] theorem drawResult_one (e : Entropy) : drawResult 1 e = true := by simp [drawResult]

@[simp] theorem drawNext_drawn (p : Prob) (e : Entropy) : (drawNext p e).drawn = (p, drawResult p e) :: e.drawn := rfl

/-! ### Flips (R142) -/

@[simp] theorem flipBit_length (b : Bytes) (k : Nat) : (flipBit b k).length = b.length := by simp [flipBit]

/-- A flip at bit `m` of byte `n` inverts that byte's bit and leaves every other byte. -/
theorem flipBit_getElem? (b : Bytes) (k n : Nat) :
    (flipBit b k)[n]? = if k / 8 = n then (b[n]?).map (fun x => x ^^^ (1#8 <<< (7 - k % 8))) else b[n]? := by
  simp only [flipBit, List.getElem?_modify]
  split
  · rfl
  · simp

/-! ### The bit loops (R145, R146) -/

theorem geBits_length (c : Cfg) (ks : List Nat) (b : Bytes) (ch : ChState) (e : Entropy) :
    (geBits c ks b ch e).1.length = b.length := by
  induction ks generalizing b ch e with
  | nil => rfl
  | cons k ks ih =>
    simp only [geBits, ih]
    split <;> simp

/-- Two draws a visit. -/
theorem geBits_drawn_length (c : Cfg) (ks : List Nat) (b : Bytes) (ch : ChState) (e : Entropy) :
    (geBits c ks b ch e).2.2.drawn.length = e.drawn.length + 2 * ks.length := by
  induction ks generalizing b ch e with
  | nil => rfl
  | cons k ks ih =>
    simp only [geBits, ih, drawNext_drawn, List.length_cons]
    omega

theorem bscBits_length (p : Prob) (ks : List Nat) (b : Bytes) (e : Entropy) :
    (bscBits p ks b e).1.length = b.length := by
  induction ks generalizing b e with
  | nil => rfl
  | cons k ks ih =>
    simp only [bscBits, ih]
    split <;> simp

/-- One draw a visit. -/
theorem bscBits_drawn_length (p : Prob) (ks : List Nat) (b : Bytes) (e : Entropy) :
    (bscBits p ks b e).2.drawn.length = e.drawn.length + ks.length := by
  induction ks generalizing b e with
  | nil => rfl
  | cons k ks ih =>
    simp only [bscBits, ih, drawNext_drawn, List.length_cons]
    omega

@[simp] theorem bitVisits_length (b : Bytes) : (bitVisits b).length = 8 * b.length := by simp [bitVisits]

/-! ### The strategies on their two kinds of input (R145-R147) -/

theorem onArrived_cons (x : Byte) (xs : Bytes) (ch : ChState) (e : Entropy) (run : Bytes → Crossing) :
    onArrived (some (x :: xs)) ch e run = run (x :: xs) := rfl

/-- What a strategy does with a wire value: nothing arrived, or it ran on a non-empty byte string. -/
theorem onArrived_cases (w : Wire) (ch : ChState) (e : Entropy) (run : Bytes → Crossing) :
    ((w = none ∨ w = some []) ∧ onArrived w ch e run = { wire := none, chState := ch, entropy := e }) ∨
      ∃ b, b ≠ [] ∧ w = some b ∧ onArrived w ch e run = run b := by
  match w with
  | none => exact .inl ⟨.inl rfl, rfl⟩
  | some [] => exact .inl ⟨.inr rfl, rfl⟩
  | some (x :: xs) => exact .inr ⟨x :: xs, by simp, rfl, rfl⟩

/-- `Bsc` keeps the channel state (R146). -/
@[simp] theorem bsc_chState (p : Prob) (w : Wire) (ch : ChState) (e : Entropy) : (bsc p w ch e).chState = ch := by
  unfold bsc
  rcases onArrived_cases w ch e (fun b => bscBytes p b ch e) with ⟨-, h⟩ | ⟨b, -, -, h⟩
  · rw [h]
  · rw [h]
    rfl

/-- The loss decorator in front of `Bsc` keeps the channel state (R146, R147). -/
@[simp] theorem loss_bsc_chState (p q : Prob) (w : Wire) (ch : ChState) (e : Entropy) :
    (loss p w ch e (bscBytes q)).chState = ch := by
  match w with
  | none => rfl
  | some [] => rfl
  | some (x :: xs) =>
    simp only [loss, onArrived]
    split <;> rfl

/-- `Propagate` writes `ch_state` in modes GE and LOSS_GE only, and leaves the entropy port alone in mode IDEAL (R148,
R149). -/
theorem propagate_frame (c : Cfg) (w : Wire) (ch : ChState) (e : Entropy) :
    ((propagate c w ch e).chState ≠ ch → c.modeCode = 1 ∨ c.modeCode = 3) ∧
      (c.modeCode = 0 → (propagate c w ch e).entropy = e) := by
  constructor
  · unfold propagate channelMode
    split_ifs <;> simp_all
  · intro h
    simp [propagate, channelMode, h]

end Sys2Proof.Machine
end

