-- ==== Sys2Proof/Laws/Codec.lean ====
section
/-! SUPPORT. The integrity code step by step (each shift and each byte step can be undone, R110), and the bytes of a
wire frame one by one (R80, R113). -/

namespace Sys2Proof

theorem xor_cancel_right {w : Nat} {x y z : BitVec w} (h : x ^^^ z = y ^^^ z) : x = y := by
  have := congrArg (· ^^^ z) h
  simpa [BitVec.xor_assoc] using this

theorem xor_cancel_left {w : Nat} {x y z : BitVec w} (h : z ^^^ x = z ^^^ y) : x = y := by
  rw [BitVec.xor_comm z x, BitVec.xor_comm z y] at h
  exact xor_cancel_right h

/-- The top bit of a shift's result is the bit that was shifted out, so a shift loses nothing. -/
theorem crcShift_injective : Function.Injective crcShift := by
  intro x y h
  have top : ∀ z : BitVec 32, (crcShift z).getLsbD 31 = z.getLsbD 0 := by
    intro z
    unfold crcShift
    by_cases hz : z.getLsbD 0 = true
    · rw [if_pos hz, hz]
      simp
    · rw [if_neg hz, Bool.eq_false_iff.mpr hz]
      simp
  have h0 : x.getLsbD 0 = y.getLsbD 0 := by rw [← top x, ← top y, h]
  have hs : x >>> 1 = y >>> 1 := by
    unfold crcShift at h
    rw [h0] at h
    split at h
    · exact xor_cancel_right h
    · exact h
  apply BitVec.eq_of_getLsbD_eq
  intro i hi
  rcases i with _ | i
  · exact h0
  · have := congrArg (fun z : BitVec 32 => z.getLsbD i) hs
    simpa [Nat.add_comm] using this

theorem crcShift8_injective : Function.Injective crcShift8 := by
  intro x y h
  unfold crcShift8 at h
  exact crcShift_injective (crcShift_injective (crcShift_injective (crcShift_injective (crcShift_injective
    (crcShift_injective (crcShift_injective (crcShift_injective h)))))))

/-- A byte step loses nothing of the register. -/
theorem crcByte_injective (b : Byte) : Function.Injective (fun c => crcByte c b) := by
  intro x y h
  exact xor_cancel_right (crcShift8_injective h)

/-- From one register value, different bytes give different values. -/
theorem crcByte_byte_injective (c : BitVec 32) : Function.Injective (crcByte c) := by
  intro x y h
  have hz : x.zeroExtend 32 = y.zeroExtend 32 := xor_cancel_left (crcShift8_injective h)
  have := congrArg BitVec.toNat hz
  apply BitVec.eq_of_toNat_eq
  have hx := x.isLt
  have hy := y.isLt
  simp only [BitVec.truncate_eq_setWidth, BitVec.toNat_setWidth] at this
  omega

/-- The loop over the bytes loses nothing of the register. -/
theorem crcFold_injective (b : Bytes) : Function.Injective (fun c => b.foldl crcByte c) := by
  induction b with
  | nil => exact fun x y h => h
  | cons x xs ih => exact fun c d h => crcByte_injective x (ih h)

/-- Two byte strings that differ in one byte have different codes. -/
theorem crc32_ne_of_one_byte (l r : Bytes) {x y : Byte} (h : x ≠ y) : crc32 (l ++ x :: r) ≠ crc32 (l ++ y :: r) := by
  intro e
  have e' := xor_cancel_right e
  simp only [List.foldl_append, List.foldl_cons] at e'
  exact h (crcByte_byte_injective _ (crcFold_injective r e'))

/-! ### Big-endian packing (R10) -/

theorem fromBE16_be16 (v : BitVec 16) : fromBE16 (v.extractLsb' 8 8) (v.extractLsb' 0 8) = v := by
  unfold fromBE16
  ext i hi
  simp only [BitVec.getElem_append, BitVec.getElem_extractLsb']
  split
  · simp [BitVec.getLsbD_eq_getElem hi]
  · rw [← BitVec.getLsbD_eq_getElem hi]
    congr 1
    omega

theorem fromBE32_be32 (v : BitVec 32) :
    fromBE32 (v.extractLsb' 24 8) (v.extractLsb' 16 8) (v.extractLsb' 8 8) (v.extractLsb' 0 8) = v := by
  unfold fromBE32
  ext i hi
  simp only [BitVec.getElem_append, BitVec.getElem_extractLsb']
  rw [← BitVec.getLsbD_eq_getElem hi]
  split_ifs <;> simp <;> congr 1 <;> omega

theorem getLsbD_fromBE16 (b1 b0 : Byte) (i : Nat) :
    (fromBE16 b1 b0).getLsbD i = if i < 8 then b0.getLsbD i else b1.getLsbD (i - 8) := BitVec.getLsbD_append

theorem be16_fromBE16 (b1 b0 : Byte) : be16 (fromBE16 b1 b0) = [b1, b0] := by
  unfold be16
  congr 1
  · ext i hi
    simp [BitVec.getElem_extractLsb', getLsbD_fromBE16, BitVec.getLsbD_eq_getElem hi]
  · congr 1
    ext i hi
    simp [BitVec.getElem_extractLsb', getLsbD_fromBE16, hi]

/-! ### The bytes of a wire frame (R80, R113) -/

theorem be32_length (v : BitVec 32) : (be32 v).length = 4 := rfl

theorem encodeFrame_length (f : Frame) : (encodeFrame f).length = 8 + f.payload.length := by
  simp [encodeFrame, frameBody, be32]
  omega

theorem encodeFrame_drop4 (f : Frame) : (encodeFrame f).drop 4 = frameBody f := rfl

theorem embeddedChecksum_encodeFrame (f : Frame) : embeddedChecksum (encodeFrame f) = crc32 (frameBody f) :=
  fromBE32_be32 _

theorem kindOfCode_kindCode (k : FrameKind) : kindOfCode (kindCode k) = some k := by cases k <;> rfl

end Sys2Proof
end

