-- ==== Sys2Proof/Laws/Driver.lean ====
section
/-! SUPPORT. How a run can stand at an iteration boundary (R237, R257). -/

namespace Sys2Proof.Machine

/-- The end of a run says that the log holds the target and that no fault bit is set, and nothing more. -/
theorem runVerdict_ended {target : Nat} {s : State} :
    runVerdict target s = .ended ↔ s.log.length = target ∧ s.fault = 0 := by
  unfold runVerdict runEnded halted
  by_cases hf : s.fault = 0#8 <;> by_cases hl : s.log.length = target <;> simp [hf, hl]

/-- A halted block is never the end, whatever its log holds. -/
theorem runVerdict_stoppedHalted {target : Nat} {s : State} : runVerdict target s = .stoppedHalted ↔ s.fault ≠ 0 := by
  unfold runVerdict runEnded halted
  by_cases hf : s.fault = 0#8 <;> by_cases hl : s.log.length = target <;> simp [hf, hl]

/-- The run goes on while the block runs and the log is short of, or past, the target. -/
theorem runVerdict_goesOn {target : Nat} {s : State} :
    runVerdict target s = .goesOn ↔ s.log.length ≠ target ∧ s.fault = 0 := by
  unfold runVerdict runEnded halted
  by_cases hf : s.fault = 0#8 <;> by_cases hl : s.log.length = target <;> simp [hf, hl]

end Sys2Proof.Machine
end

