-- ==== Sys2Proof/Laws/Encoding.lean ====
section
/-! SUPPORT. The opcode and selector maps are one-to-one (R94, R39), and what each parser makes of what the encoder
writes (R86-R92). -/

namespace Sys2Proof

theorem opcodeOf_opcodeByte (op : Opcode) : opcodeOf (opcodeByte op) = some op := by cases op <;> decide

theorem selectorOf_selectorByte (sel : Selector) : selectorOf (selectorByte sel) = some sel := by
  cases sel <;> decide

/-- No two rows of the opcode map match one byte. -/
theorem opcodeMap_nodup : (opcodeMap.map (·.1)).Nodup := by decide

/-- No two selectors have one code. -/
theorem selectorMap_nodup : (selectorMap.map (·.1)).Nodup := by decide

/-- The opcode map and `opcodeByte` are one table. -/
theorem opcodeMap_rows : ∀ row ∈ opcodeMap, opcodeByte row.2 = row.1 := by decide

theorem opcodeByte_of_opcodeOf {b : Byte} {op : Opcode} (h : opcodeOf b = some op) : opcodeByte op = b := by
  simp only [opcodeOf, Option.map_eq_some_iff] at h
  obtain ⟨row, hrow, rfl⟩ := h
  have hb := List.find?_some hrow
  simp only [beq_iff_eq] at hb
  rw [← hb]
  exact opcodeMap_rows row (List.mem_of_find?_eq_some hrow)

/-- The selector map and `selectorByte` are one table. -/
theorem selectorMap_rows : ∀ row ∈ selectorMap, selectorByte row.2 = row.1 := by decide

theorem selectorByte_of_selectorOf {b : Byte} {sel : Selector} (h : selectorOf b = some sel) :
    selectorByte sel = b := by
  simp only [selectorOf, Option.map_eq_some_iff] at h
  obtain ⟨row, hrow, rfl⟩ := h
  have hb := List.find?_some hrow
  simp only [beq_iff_eq] at hb
  rw [← hb]
  exact selectorMap_rows row (List.mem_of_find?_eq_some hrow)

/-- Format B reads back a wire value that fits it (R92). -/
theorem parseWire_wireBytes {w : Wire} (h : wireFits w = true) : parseWire (wireBytes w) = .ok w := by
  cases w with
  | none => decide
  | some d =>
    have hl : d.length ≤ 65535 := of_decide_eq_true h
    simp [wireBytes, be16, parseWire, fromBE16_be16, Nat.mod_eq_of_lt (show d.length < 65536 by omega)]

/-- Format B of a command that needs bytes reads back a byte string that fits it (R92, R95). -/
theorem parseBytes_wireBytes {b : Bytes} (h : fitsOperand b = true) : parseBytes (wireBytes (some b)) = .ok b := by
  simp [parseBytes, parseWire_wireBytes (w := some b) h]

/-- Format F reads back a frame record that fits it (R91). -/
theorem parseFrame_frameRecordBytes {f : Frame} (h : fitsFrame f.payload = true) :
    parseFrame (frameRecordBytes f) = .ok f := by
  have hl : f.payload.length ≤ 65527 := of_decide_eq_true h
  simp [frameRecordBytes, be16, parseFrame, fromBE16_be16, kindOfCode_kindCode, maxFramePayload,
    Nat.mod_eq_of_lt (show f.payload.length < 65536 by omega), hl]

/-- Format T reads back a delta (R89). -/
theorem parseDelta_be32 (d : BitVec 32) : parseDelta (be32 d) = .ok d := by
  simp [parseDelta, be32, fromBE32_be32]

/-- Format I reads back an index (R90). -/
theorem parseIndex_be16 (i : BitVec 16) : parseIndex (be16 i) = .ok i := by
  simp [parseIndex, be16, fromBE16_be16]

end Sys2Proof
end

