-- ==== Sys2Proof/Laws/Ops.lean ====
section
/-! SUPPORT. One lemma per shared operation that says all it can do: the guard, sequence arithmetic, and the buffer and
its canonical form. -/

namespace Sys2Proof.Machine

/-! ### The guard (R257, R281) -/

theorem guarded_running {s : State} (h : s.running) (r : State) : guarded s r = .next r := by
  simp [guarded, halted, h.1, h.2]

theorem guarded_halted {s : State} (h : s.fault ≠ 0) (r : State) : guarded s r = .next (respond .halted [] s) := by
  have hh : halted s = true := by simpa [halted] using h
  simp [guarded, hh]

/-- A guarded command that answers a next state either found the block halted or ran. -/
theorem guarded_cases {s r t : State} (h : guarded s r = .next t) :
    (s.fault ≠ 0 ∧ t = respond .halted [] s) ∨ (s.running ∧ t = r) := by
  unfold guarded at h
  split at h
  · next hh => exact .inl ⟨by simpa [halted] using hh, by simpa using h.symm⟩
  · next hh =>
    split at h
    · next hl => exact .inr ⟨⟨by simpa [halted] using hh, hl⟩, by simpa using h.symm⟩
    · cases h

/-! ### The configuration (R22) -/

theorem maxSeq_pos (c : Cfg) : 0 < maxSeq c := Nat.two_pow_pos _

/-- What legality gives the sender and receiver rules. -/
theorem cfgLegal_bounds {c : Cfg} (h : cfgLegal c = true) :
    2 ≤ maxSeq c ∧ maxSeq c ≤ 256 ∧ 1 ≤ c.windowSize.toNat ∧ c.windowSize.toNat < maxSeq c ∧
      c.modeCode.toNat ≤ 4 := by
  simp only [cfgLegal, Bool.and_eq_true, decide_eq_true_eq] at h
  obtain ⟨⟨⟨⟨⟨h1, h8⟩, hn, hnm⟩, hm⟩, -⟩, -⟩ := h
  refine ⟨?_, ?_, hn, hnm, hm⟩
  · calc 2 = 2 ^ 1 := rfl
      _ ≤ maxSeq c := Nat.pow_le_pow_right (by decide) h1
  · calc maxSeq c ≤ 2 ^ 8 := Nat.pow_le_pow_right (by decide) h8
      _ = 256 := rfl

/-! ### Sequence numbers (R11) -/

/-- Below `M`, the modular distance without integers. -/
theorem seqDist_eq {M : Nat} {a b : Byte} (ha : a.toNat < M) (hb : b.toNat < M) :
    seqDist M a b = if b.toNat ≤ a.toNat then a.toNat - b.toNat else a.toNat + M - b.toNat := by
  unfold seqDist
  split
  · rw [Int.emod_eq_of_lt (by omega) (by omega)]
    omega
  · rw [← Int.add_emod_right, Int.emod_eq_of_lt (by omega) (by omega)]
    omega

theorem seqDist_lt {M : Nat} (hM : 0 < M) (a b : Byte) : seqDist M a b < M := by
  unfold seqDist
  have h1 := Int.emod_nonneg ((a.toNat : Int) - b.toNat) (b := (M : Int)) (by omega)
  have h2 := Int.emod_lt_of_pos ((a.toNat : Int) - b.toNat) (b := (M : Int)) (by omega)
  omega

@[simp] theorem seqDist_self (M : Nat) (a : Byte) : seqDist M a a = 0 := by
  simp [seqDist]

/-- Below `M`, distance 0 is equality. -/
theorem seqDist_eq_zero {M : Nat} {a b : Byte} (ha : a.toNat < M) (hb : b.toNat < M) :
    seqDist M a b = 0 ↔ a = b := by
  rw [seqDist_eq ha hb]
  constructor
  · intro h
    apply BitVec.eq_of_toNat_eq
    split at h <;> omega
  · rintro rfl
    simp

theorem seqNext_toNat {M : Nat} (hM : 0 < M) (h : M ≤ 256) (q : Byte) : (seqNext M q).toNat = (q.toNat + 1) % M := by
  have := Nat.mod_lt (q.toNat + 1) hM
  simp only [seqNext, BitVec.toNat_ofNat]
  omega

theorem seqNext_lt {M : Nat} (hM : 0 < M) (h : M ≤ 256) (q : Byte) : (seqNext M q).toNat < M := by
  rw [seqNext_toNat hM h]
  exact Nat.mod_lt _ hM

/-- The successor below `M`, without the modulus. -/
theorem seqNext_eq {M : Nat} (hM : 0 < M) (h : M ≤ 256) {q : Byte} (hq : q.toNat < M) :
    (seqNext M q).toNat = if q.toNat + 1 = M then 0 else q.toNat + 1 := by
  rw [seqNext_toNat hM h]
  split
  · next e => rw [e, Nat.mod_self]
  · exact Nat.mod_eq_of_lt (by omega)

/-- Stepping the lower end brings it one nearer. -/
theorem seqDist_seqNext {M : Nat} (h : M ≤ 256) {a b : Byte} (ha : a.toNat < M) (hb : b.toNat < M) (hab : b ≠ a) :
    seqDist M a (seqNext M b) = seqDist M a b - 1 ∧ 0 < seqDist M a b := by
  have hM : 0 < M := by omega
  have hn := seqNext_eq hM h hb
  have hne : b.toNat ≠ a.toNat := fun e => hab (BitVec.eq_of_toNat_eq e)
  rw [seqDist_eq ha (seqNext_lt hM h b), seqDist_eq ha hb, hn]
  clear hn
  split_ifs <;> omega

/-! ### The buffer (R63) -/

@[simp] theorem bufRead_nil (q : Nat) : bufRead q [] = none := rfl

theorem bufRead_bufWrite_same (q : Nat) (f : Frame) (b : Buf) : bufRead q (bufWrite q f b) = some f := by
  induction b with
  | nil => simp [bufWrite, bufRead]
  | cons hd tl ih =>
    obtain ⟨q', f'⟩ := hd
    simp only [bufWrite]
    split
    · simp [bufRead]
    · split
      · simp [bufRead]
      · next h => simp [bufRead, Ne.symm h, ih]

theorem bufRead_bufWrite_other {q q' : Nat} (h : q' ≠ q) (f : Frame) (b : Buf) :
    bufRead q' (bufWrite q f b) = bufRead q' b := by
  induction b with
  | nil => simp [bufWrite, bufRead, Ne.symm h]
  | cons hd tl ih =>
    obtain ⟨k, g⟩ := hd
    simp only [bufWrite]
    split
    · simp [bufRead, Ne.symm h]
    · split
      · next e =>
        subst e
        simp [bufRead, Ne.symm h]
      · simp only [bufRead, ih]

theorem bufRead_bufDel_other {q q' : Nat} (h : q' ≠ q) (b : Buf) : bufRead q' (bufDel q b) = bufRead q' b := by
  induction b with
  | nil => rfl
  | cons hd tl ih =>
    obtain ⟨k, g⟩ := hd
    simp only [bufDel]
    split
    · next e =>
      subst e
      simp [bufRead, Ne.symm h]
    · simp only [bufRead, ih]

/-- The canonical form, entry by entry. -/
theorem wf_cons {q : Nat} {f : Frame} {b : Buf} :
    Buf.wf ((q, f) :: b) = true ↔ (∀ e ∈ b, q < e.1) ∧ Buf.wf b = true := by
  induction b generalizing q f with
  | nil => simp [Buf.wf]
  | cons hd tl ih =>
    obtain ⟨k, g⟩ := hd
    simp only [Buf.wf, Bool.and_eq_true, decide_eq_true_eq, List.mem_cons, forall_eq_or_imp]
    constructor
    · rintro ⟨h1, h2⟩
      refine ⟨⟨h1, fun e he => ?_⟩, h2⟩
      exact lt_trans h1 ((ih.mp h2).1 e he)
    · rintro ⟨⟨h1, -⟩, h2⟩
      exact ⟨h1, h2⟩

theorem bufRead_none_of_lt {q : Nat} {b : Buf} (h : ∀ e ∈ b, q < e.1) : bufRead q b = none := by
  induction b with
  | nil => rfl
  | cons hd tl ih =>
    obtain ⟨k, g⟩ := hd
    simp only [List.mem_cons, forall_eq_or_imp] at h
    simp only [bufRead]
    rw [if_neg (by have := h.1; omega)]
    exact ih h.2

theorem bufRead_bufDel_same {q : Nat} {b : Buf} (h : Buf.wf b = true) : bufRead q (bufDel q b) = none := by
  induction b with
  | nil => rfl
  | cons hd tl ih =>
    obtain ⟨k, g⟩ := hd
    rw [wf_cons] at h
    simp only [bufDel]
    split
    · next e =>
      subst e
      exact bufRead_none_of_lt h.1
    · next e => simp [bufRead, e, ih h.2]

theorem mem_bufWrite {q : Nat} {f : Frame} {b : Buf} {e : Nat × Frame} (h : e ∈ bufWrite q f b) :
    e = (q, f) ∨ e ∈ b := by
  induction b with
  | nil => simpa [bufWrite] using h
  | cons hd tl ih =>
    obtain ⟨k, g⟩ := hd
    simp only [bufWrite] at h
    split at h
    · simpa using h
    · split at h
      · simp only [List.mem_cons] at h ⊢
        tauto
      · simp only [List.mem_cons] at h ⊢
        rcases h with h | h
        · exact .inr (.inl h)
        · rcases ih h with h | h
          · exact .inl h
          · exact .inr (.inr h)

theorem mem_of_mem_bufDel {q : Nat} {b : Buf} {e : Nat × Frame} (h : e ∈ bufDel q b) : e ∈ b := by
  induction b with
  | nil => exact h
  | cons hd tl ih =>
    obtain ⟨k, g⟩ := hd
    simp only [bufDel] at h
    split at h
    · exact List.mem_cons_of_mem _ h
    · simp only [List.mem_cons] at h ⊢
      exact h.imp id ih

/-- Writing a slot keeps the canonical form. -/
theorem bufWrite_wf (q : Nat) (f : Frame) {b : Buf} (h : Buf.wf b = true) : Buf.wf (bufWrite q f b) = true := by
  induction b with
  | nil => rfl
  | cons hd tl ih =>
    obtain ⟨k, g⟩ := hd
    have h' := wf_cons.mp h
    simp only [bufWrite]
    split
    · next hlt =>
      rw [wf_cons]
      refine ⟨fun e he => ?_, h⟩
      rcases List.mem_cons.mp he with rfl | he
      · exact hlt
      · exact lt_trans hlt (h'.1 e he)
    · split
      · next e =>
        subst e
        exact wf_cons.mpr h'
      · next h1 h2 =>
        rw [wf_cons]
        refine ⟨fun e he => ?_, ih h'.2⟩
        rcases mem_bufWrite he with rfl | he
        · simp only
          omega
        · exact h'.1 e he

/-- Emptying a slot keeps the canonical form. -/
theorem bufDel_wf (q : Nat) {b : Buf} (h : Buf.wf b = true) : Buf.wf (bufDel q b) = true := by
  induction b with
  | nil => rfl
  | cons hd tl ih =>
    obtain ⟨k, g⟩ := hd
    have h' := wf_cons.mp h
    simp only [bufDel]
    split
    · exact h'.2
    · rw [wf_cons]
      exact ⟨fun e he => h'.1 e (mem_of_mem_bufDel he), ih h'.2⟩

theorem reset_buf_wf : Buf.wf State.reset.buf = true := rfl

end Sys2Proof.Machine
end

