-- ==== Sys2Proof/Laws/Sender.lean ====
section
/-! SUPPORT. What the two loops of the Sender do: `Advance` (R175) and the resending of the window (R188). -/

namespace Sys2Proof.Machine

/-- `Advance`'s loop ends at the ACK number, empties exactly the slots it passes, and keeps the canonical form. -/
theorem advanceLoop_spec {M : Nat} (hM : M ≤ 256) {a : Byte} (ha : a.toNat < M) (n : Nat) (b : Byte) (buf : Buf)
    (hb : b.toNat < M) (hn : seqDist M a b ≤ n) (hwf : Buf.wf buf = true) :
    (advanceLoop M a n b buf).1 = a ∧ Buf.wf (advanceLoop M a n b buf).2 = true ∧
      (∀ q : Byte, q.toNat < M → bufRead q.toNat (advanceLoop M a n b buf).2 =
        if seqDist M q b < seqDist M a b then none else bufRead q.toNat buf) ∧
      (∀ q : Nat, M ≤ q → bufRead q (advanceLoop M a n b buf).2 = bufRead q buf) := by
  induction n generalizing b buf with
  | zero =>
    have hba : b = a := ((seqDist_eq_zero ha hb).mp (by omega)).symm
    subst hba
    simp [advanceLoop, hwf]
  | succ n ih =>
    by_cases hba : b = a
    · subst hba
      simp [advanceLoop, hwf]
    · have hd := seqDist_seqNext hM ha hb hba
      have hb' := seqNext_lt (by omega) hM b
      obtain ⟨h1, h2, h3, h4⟩ := ih (seqNext M b) (bufDel b.toNat buf) hb' (by omega) (bufDel_wf _ hwf)
      simp only [advanceLoop, if_neg hba]
      refine ⟨h1, h2, fun q hq => ?_, fun q hq => ?_⟩
      · rw [h3 q hq]
        by_cases hqb : q = b
        · subst hqb
          rw [bufRead_bufDel_same hwf, ite_self, seqDist_self, if_pos hd.2]
        · have hq' := seqDist_seqNext hM hq hb (Ne.symm hqb)
          rw [bufRead_bufDel_other (fun e => hqb (BitVec.eq_of_toNat_eq e))]
          by_cases hlt : seqDist M q b < seqDist M a b
          · rw [if_pos hlt, if_pos (by omega)]
          · rw [if_neg hlt, if_neg (by omega)]
      · rw [h4 q hq, bufRead_bufDel_other (by omega)]

/-- `Advance`'s loop ends at the ACK number from wherever it starts, in range or not, and whatever the buffer holds. -/
theorem advanceLoop_fst {M : Nat} (hM : M ≤ 256) {a : Byte} (ha : a.toNat < M) (b : Byte) (buf : Buf) :
    (advanceLoop M a M b buf).1 = a := by
  have inRange : ∀ (n : Nat) (b : Byte) (buf : Buf), b.toNat < M → seqDist M a b ≤ n →
      (advanceLoop M a n b buf).1 = a := by
    intro n
    induction n with
    | zero =>
      intro b buf hb h
      exact ((seqDist_eq_zero ha hb).mp (by omega)).symm
    | succ n ih =>
      intro b buf hb h
      unfold advanceLoop
      split
      · assumption
      · next hba =>
        have := seqDist_seqNext hM ha hb hba
        exact ih _ _ (seqNext_lt (by omega) hM b) (by omega)
  obtain ⟨n, rfl⟩ : ∃ n, M = n + 1 := ⟨M - 1, by omega⟩
  unfold advanceLoop
  split
  · assumption
  · have := seqDist_lt (by omega : 0 < n + 1) a (seqNext (n + 1) b)
    exact inRange _ _ _ (seqNext_lt (by omega) hM b) (by omega)

/-- The sequence numbers of a window that starts at `q`, one step on. -/
theorem window_shift {M : Nat} (hM : 0 < M) (hM' : M ≤ 256) (q : Byte) (buf : Buf) (k : Nat) :
    (List.range (k + 1)).filterMap (fun j => bufRead ((q.toNat + j) % M) buf) =
      (bufRead (q.toNat % M) buf).toList ++
        (List.range k).filterMap (fun j => bufRead (((seqNext M q).toNat + j) % M) buf) := by
  rw [List.range_succ_eq_map, List.filterMap_cons]
  have e : (fun j => bufRead (((seqNext M q).toNat + j) % M) buf) =
      (fun j => bufRead ((q.toNat + j) % M) buf) ∘ Nat.succ := by
    funext j
    rw [seqNext_toNat hM hM', Nat.mod_add_mod]
    simp only [Function.comp_apply]
    congr 2
    omega
  rw [e, List.filterMap_map]
  cases bufRead ((q.toNat + 0) % M) buf <;> cases h : bufRead (q.toNat % M) buf <;> simp_all

/-- The loop of `RETRANSMIT` sends the buffered frames from `q` up to `next_seq`, each once through the channel, and
counts them. -/
theorem resendLoop_spec (n : Nat) (q : Byte) (s : State) (hM : maxSeq s.cfg ≤ 256)
    (hnx : s.nextSeq.toNat < maxSeq s.cfg) (hq : q.toNat < maxSeq s.cfg)
    (hn : seqDist (maxSeq s.cfg) s.nextSeq q ≤ n) (fs : List Frame)
    (hfs : fs = (List.range (seqDist (maxSeq s.cfg) s.nextSeq q)).filterMap
      (fun j => bufRead ((q.toNat + j) % maxSeq s.cfg) s.buf)) :
    resendLoop n q s = ((crossAll s.cfg fs s.chState s.entropy).1,
      { s with
        retxCount := s.retxCount + fs.length
        chState := (crossAll s.cfg fs s.chState s.entropy).2.1
        entropy := (crossAll s.cfg fs s.chState s.entropy).2.2 }) := by
  induction n generalizing q s fs with
  | zero =>
    have : seqDist (maxSeq s.cfg) s.nextSeq q = 0 := by omega
    rw [this] at hfs
    subst hfs
    simp [resendLoop, crossAll]
  | succ n ih =>
    by_cases hqn : q = s.nextSeq
    · subst hqn
      simp only [seqDist_self, List.range_zero, List.filterMap_nil] at hfs
      subst hfs
      simp [resendLoop, crossAll]
    · have hd := seqDist_seqNext hM hnx hq hqn
      have hq' := seqNext_lt (maxSeq_pos s.cfg) hM q
      obtain ⟨k, hk⟩ : ∃ k, seqDist (maxSeq s.cfg) s.nextSeq q = k + 1 := ⟨_, (Nat.succ_pred_eq_of_pos hd.2).symm⟩
      have hk' : seqDist (maxSeq s.cfg) s.nextSeq (seqNext (maxSeq s.cfg) q) = k := by omega
      rw [hk, window_shift (maxSeq_pos s.cfg) hM, Nat.mod_eq_of_lt hq] at hfs
      simp only [resendLoop, if_neg hqn]
      cases hf : bufRead q.toNat s.buf with
      | none =>
        simp only [hf, Option.toList_none, List.nil_append] at hfs
        exact ih _ s hM hnx hq' (by omega) fs (by rw [hk']; exact hfs)
      | some f =>
        simp only [hf, Option.toList_some, List.cons_append, List.nil_append] at hfs
        subst hfs
        have hr := ih (seqNext (maxSeq s.cfg) q) (resend f s).2 hM hnx hq' (Nat.le_of_lt_succ (by
          show seqDist (maxSeq s.cfg) s.nextSeq (seqNext (maxSeq s.cfg) q) < n + 1
          omega)) _ rfl
        have e : seqDist (maxSeq (resend f s).2.cfg) (resend f s).2.nextSeq (seqNext (maxSeq s.cfg) q) = k := hk'
        rw [e] at hr
        dsimp only
        rw [hr]
        simp only [resend, crossing, afterCrossing, crossAll, List.length_cons, Nat.add_assoc, Nat.add_comm 1]

end Sys2Proof.Machine
end

