-- ==== Sys2Proof/Laws/Meanings.lean ====
section
/-! SUPPORT. Everything `exec` can answer, said once: what an instruction does past the guard, the inversion of `exec`,
and what the larger meanings can do. -/

namespace Sys2Proof.Machine

/-- What an instruction does past the guard (R257); READ and RESET have none. -/
def effect (i : Instr) (s : State) : State :=
  match i with
  | .crc32 b => respond .ok [.word32 (crc32 b)] s
  | .verify b => respond .ok (verifyOutputs b) s
  | .encode f => respond .ok [.wire (some (encodeFrame f))] s
  | .decode b => reportDecode (decodeFrame b) { s with dr := some (decodeFrame b) }
  | .isCorrupt => isCorruptOf s
  | .propagate w => respond .ok [.wire (crossing w s).wire] (afterCrossing (crossing w s) s)
  | .propagateBsc w =>
    respond .ok [.wire (bsc s.cfg.bscP w s.chState s.entropy).wire]
      (afterCrossing (bsc s.cfg.bscP w s.chState s.entropy) s)
  | .submit p => submit p s
  | .onAck a => ackReceived a s
  | .ackIn w => ackArrived w s
  | .isTimeout => checkTimeout s
  | .retransmit => resendWindow s
  | .onFrame w => frameArrived w s
  | .tick d => respond .ok [] { s with now := s.now + d.toNat }
  | .read sel => respond .ok [.word64 (readValue s sel)] s
  | .readBuf q => slotAnswer q s
  | .readLog n => entryAnswer n s
  | .reset =>
    if cfgLegal s.cfgPort then respond .ok [] (resetRegisters s) else raiseFault fConfigInvalid (resetRegisters s)
  | .frameData q sid rid p => reportDecode (decodeFrame (encode (.frameData q sid rid p))) s
  | .frameAck q sid rid p => reportDecode (decodeFrame (encode (.frameAck q sid rid p))) s

/-- A running block executes every instruction. -/
theorem exec_running {s : State} (h : s.running) (i : Instr) : exec i s = .next (effect i s) := by
  cases i
  case read => rfl
  case reset => rfl
  all_goals exact guarded_running h _

/-- `exec` inverted: the instruction ran, on a running block or as READ or RESET, or a halted block answered HALTED. -/
theorem exec_next {i : Instr} {s t : State} (h : exec i s = .next t) :
    (t = effect i s ∧ (s.running ∨ i = .reset ∨ ∃ sel, i = .read sel)) ∨
      (t = respond .halted [] s ∧ s.fault ≠ 0) := by
  cases i
  case read sel => exact .inl ⟨by simpa [exec, execRead, effect] using h.symm, .inr (.inr ⟨sel, rfl⟩)⟩
  case reset => exact .inl ⟨by simpa [exec, execReset, effect] using h.symm, .inr (.inl rfl)⟩
  all_goals
    rcases guarded_cases h with ⟨h1, h2⟩ | ⟨h1, h2⟩
    · exact .inr ⟨h2, h1⟩
    · exact .inl ⟨h2, .inl h1⟩

/-- `Advance` in terms of where its loop ends (R175). -/
theorem advance_eq (a : Byte) (s : State) (b : Byte) (buf : Buf)
    (h : advanceLoop (maxSeq s.cfg) a (maxSeq s.cfg) s.base s.buf = (b, buf)) :
    advance a s = { s with
      base := b, buf := buf, timerRunning := !(b == s.nextSeq)
      timerStart := if b = s.nextSeq then s.timerStart else s.now } := by
  simp only [advance, h, windowEmpty]
  by_cases hb : b = s.nextSeq
  · simp [hb, stopTimer]
  · simp [hb, startTimer]

/-- ON_ACK rejects, or advances, or advances and faults (R174). -/
theorem ackReceived_cases (a : Byte) (s : State) :
    (∃ st, st ≠ .fault ∧ ackReceived a s = respond st [] s) ∨
      ackReceived a s = respond .ok [.byte (BitVec.ofNat 8 (seqDist (maxSeq s.cfg) a s.base))] (advance a s) ∨
      ackReceived a s = raiseFault fAckBeyondNext (advance a s) := by
  simp only [ackReceived]
  split_ifs
  · exact .inl ⟨_, by decide, rfl⟩
  · exact .inl ⟨_, by decide, rfl⟩
  · exact .inl ⟨_, by decide, rfl⟩
  · exact .inr (.inr rfl)
  · exact .inr (.inl rfl)

/-- ON_ACK on a running block, register by register: it rejects with no change, or `base` becomes the number, another one
than before, and only an ACK beyond `next_seq` sets a fault bit (R173-R177). -/
theorem ackReceived_frame (a : Byte) {s : State} (h : s.running) :
    (∃ st, ackReceived a s = respond st [] s) ∨
      (a.toNat < maxSeq s.cfg ∧ a ≠ s.base ∧ ∃ buf st outs bits,
        ackReceived a s = { s with
          base := a, buf := buf, timerRunning := !(a == s.nextSeq)
          timerStart := if a = s.nextSeq then s.timerStart else s.now
          responses := s.responses ++ [{ status := st, outputs := outs }], fault := bits } ∧
        (bits = s.fault ∨
          (bits = s.fault ||| fAckBeyondNext ∧ outstanding s < seqDist (maxSeq s.cfg) a s.base ∧
            seqDist (maxSeq s.cfg) a s.base ≤ maxSeq s.cfg / 2))) := by
  unfold ackReceived
  dsimp only
  by_cases h1 : maxSeq s.cfg ≤ a.toNat
  · rw [if_pos h1]
    exact .inl ⟨_, rfl⟩
  rw [if_neg h1]
  by_cases h2 : seqDist (maxSeq s.cfg) a s.base = 0
  · rw [if_pos h2]
    exact .inl ⟨_, rfl⟩
  rw [if_neg h2]
  by_cases h3 : maxSeq s.cfg / 2 < seqDist (maxSeq s.cfg) a s.base
  · rw [if_pos h3]
    exact .inl ⟨_, rfl⟩
  rw [if_neg h3]
  have hM := (cfgLegal_bounds h.2).2.1
  refine .inr ⟨by omega, fun e => h2 (by rw [e, seqDist_self]), ?_⟩
  rw [advance_eq a s a _ (Prod.ext (advanceLoop_fst hM (by omega) s.base s.buf) rfl)]
  by_cases h4 : outstanding s < seqDist (maxSeq s.cfg) a s.base
  · rw [if_pos h4]
    exact ⟨_, _, _, _, rfl, .inr ⟨rfl, h4, by omega⟩⟩
  · rw [if_neg h4]
    exact ⟨_, _, _, _, rfl, .inl rfl⟩

/-- ACK_IN drops what arrived, or it is a valid ACK and ON_ACK of its number runs (R178). -/
theorem ackArrived_cases (w : Wire) (s : State) :
    (∃ st, st ≠ .fault ∧ ackArrived w s = respond st [] s) ∨
      ∃ b f, w = some b ∧ decodeFrame b = .valid f ∧ f.kind = .ack ∧ ackArrived w s = ackReceived f.seqNum s := by
  unfold ackArrived
  split
  · exact .inl ⟨_, by decide, rfl⟩
  · exact .inl ⟨_, by decide, rfl⟩
  · split
    · next cls _ _ => exact .inl ⟨_, by cases cls <;> decide, rfl⟩
    · next f hf =>
      split
      · next hk => exact .inr ⟨_, f, rfl, hf, hk, rfl⟩
      · exact .inl ⟨_, by decide, rfl⟩

/-- SUBMIT rejects with no change, or admits (R170). -/
theorem submit_cases (p : Bytes) (s : State) :
    (∃ st, st ≠ .fault ∧ submit p s = respond st [] s) ∨ submit p s = submitAccepted p s := by
  unfold submit
  split_ifs
  · exact .inl ⟨_, by decide, rfl⟩
  · exact .inl ⟨_, by decide, rfl⟩
  · exact .inr rfl

/-- An accepted SUBMIT, register by register (R170). -/
theorem submitAccepted_eq (p : Bytes) (s : State) (x : Crossing)
    (h : x = propagate s.cfg (some (encodeFrame (makeData s.cfg s.nextSeq p))) s.chState s.entropy) :
    submitAccepted p s = { s with
      buf := bufWrite s.nextSeq.toNat (makeData s.cfg s.nextSeq p) s.buf
      nextSeq := seqNext (maxSeq s.cfg) s.nextSeq
      txCount := s.txCount + 1
      timerRunning := windowEmpty s || s.timerRunning
      timerStart := if windowEmpty s then s.now else s.timerStart
      chState := x.chState, entropy := x.entropy
      responses := s.responses ++ [{ status := .ok, outputs := [.byte s.nextSeq, .wire x.wire] }] } := by
  subst h
  unfold submitAccepted admitFrame
  cases windowEmpty s <;> rfl

/-- IS_TIMEOUT fires or does not (R185). -/
theorem checkTimeout_cases (s : State) :
    (timerExpired s = true ∧ checkTimeout s = respond .ok [.flag true] (stopTimer s)) ∨
      (timerExpired s = false ∧ checkTimeout s = respond .ok [.flag false] s) := by
  unfold checkTimeout
  cases h : timerExpired s
  · exact .inr ⟨rfl, rfl⟩
  · exact .inl ⟨rfl, rfl⟩

/-- The loop of RETRANSMIT writes `retx_count`, `ch_state` and the entropy port only, the last two as the channel mode
lets it (R188, R149). -/
theorem resendLoop_frame (n : Nat) (q : Byte) (s : State) :
    ∃ r c e, (resendLoop n q s).2 = { s with retxCount := r, chState := c, entropy := e } ∧
      (c ≠ s.chState → s.cfg.modeCode = 1 ∨ s.cfg.modeCode = 3) ∧ (s.cfg.modeCode = 0 → e = s.entropy) := by
  induction n generalizing q s with
  | zero => exact ⟨_, _, _, rfl, by simp, by simp⟩
  | succ n ih =>
    unfold resendLoop
    split
    · exact ⟨_, _, _, rfl, by simp, by simp⟩
    · split
      · exact ih _ _
      · next f _ =>
        obtain ⟨r, c, e, h, hc, he⟩ := ih (seqNext (maxSeq s.cfg) q) (resend f s).2
        have hp := propagate_frame s.cfg (some (encodeFrame f)) s.chState s.entropy
        refine ⟨r, c, e, h, fun hne => ?_, fun hm => (he hm).trans (hp.2 hm)⟩
        by_cases hs : c = (resend f s).2.chState
        · exact hp.1 (by rwa [hs] at hne)
        · exact hc hs

/-- What ON_FRAME can do: it answers nothing, re-ACKs, accepts the DATA frame numbered `expected`, or faults because the
log is full (R210). -/
theorem frameArrived_cases (w : Wire) (s : State) :
    frameArrived w s = respond .nothingArrived [.wire none] s ∨
      (∃ st, st ≠ .fault ∧ st ≠ .halted ∧ frameArrived w s = answerAck st s) ∨
      ∃ b f, w = some b ∧ decodeFrame b = .valid f ∧ f.kind = .data ∧ f.seqNum = s.expected ∧
        ((logFull s = false ∧ frameArrived w s = answerAck .ok (acceptPayload f.payload s)) ∨
          (logFull s = true ∧ frameArrived w s = raiseFault fLogFull s)) := by
  unfold frameArrived
  split
  · exact .inl rfl
  · exact .inl rfl
  · split
    · next cls _ _ => exact .inr (.inl ⟨_, by cases cls <;> decide, by cases cls <;> decide, rfl⟩)
    · next f hf =>
      unfold frameReceived
      split
      · next hk =>
        refine .inr (.inr ⟨_, f, rfl, hf, hk.1, hk.2, ?_⟩)
        split
        · next hl => exact .inr ⟨hl, rfl⟩
        · next hl => exact .inl ⟨by simpa using hl, rfl⟩
      · exact .inr (.inl ⟨_, by decide, by decide, rfl⟩)

end Sys2Proof.Machine
end

