-- ==== Sys2Proof/Laws/PerInstr.lean ====
section
/-! SUPPORT. Statements made per instruction. `EncodedLength`: the encoder writes as many bytes as the instruction's
format gives (R86-R92, R99), and a wire frame's bytes are 8 more than its payload's (R80, R83). -/

namespace Sys2Proof.Laws.EncodedLength

/-- The length an instruction's format gives its bytes (R99); for a wire frame, `8 + L` (R80). -/
def lengthOf : Instr → Nat
  | .crc32 b | .verify b | .decode b | .submit b => 4 + b.length
  | .encode f => 7 + f.payload.length
  | .propagate w | .propagateBsc w | .ackIn w | .onFrame w => 4 + (w.getD []).length
  | .isCorrupt | .isTimeout | .retransmit | .reset => 1
  | .onAck _ | .read _ | .readBuf _ => 2
  | .tick _ => 5
  | .readLog _ => 3
  | .frameData _ _ _ p | .frameAck _ _ _ p => 8 + p.length

def Statement (i : Instr) : Prop := (encode i).length = lengthOf i

theorem wireBytes_length (w : Wire) : (wireBytes w).length = 3 + (w.getD []).length := by
  cases w with
  | none => rfl
  | some d =>
    simp [wireBytes, be16]
    omega

theorem bytesOperand (op : Opcode) (b : Bytes) : (opcodeByte op :: wireBytes (some b)).length = 4 + b.length := by
  rw [List.length_cons, wireBytes_length, Option.getD_some]
  omega

theorem wireOperand (op : Opcode) (w : Wire) : (opcodeByte op :: wireBytes w).length = 4 + (w.getD []).length := by
  rw [List.length_cons, wireBytes_length]
  omega

theorem crc32 (b : Bytes) : Statement (.crc32 b) := bytesOperand _ b
theorem verify (b : Bytes) : Statement (.verify b) := bytesOperand _ b
theorem encode (f : Frame) : Statement (.encode f) := by
  simp [Statement, Sys2Proof.encode, frameRecordBytes, lengthOf, be16]
  omega
theorem decode (b : Bytes) : Statement (.decode b) := bytesOperand _ b
theorem isCorrupt : Statement .isCorrupt := rfl
theorem propagate (w : Wire) : Statement (.propagate w) := wireOperand _ w
theorem propagateBsc (w : Wire) : Statement (.propagateBsc w) := wireOperand _ w
theorem submit (p : Bytes) : Statement (.submit p) := bytesOperand _ p
theorem onAck (a : Byte) : Statement (.onAck a) := rfl
theorem ackIn (w : Wire) : Statement (.ackIn w) := wireOperand _ w
theorem isTimeout : Statement .isTimeout := rfl
theorem retransmit : Statement .retransmit := rfl
theorem onFrame (w : Wire) : Statement (.onFrame w) := wireOperand _ w
theorem tick (d : BitVec 32) : Statement (.tick d) := rfl
theorem read (sel : Selector) : Statement (.read sel) := rfl
theorem readBuf (q : Byte) : Statement (.readBuf q) := rfl
theorem readLog (i : BitVec 16) : Statement (.readLog i) := rfl
theorem reset : Statement .reset := rfl
theorem frameData (q sid rid : Byte) (p : Bytes) : Statement (.frameData q sid rid p) := encodeFrame_length _
theorem frameAck (q sid rid : Byte) (p : Bytes) : Statement (.frameAck q sid rid p) := encodeFrame_length _

end Sys2Proof.Laws.EncodedLength
end

