-- ==== Sys2Proof/Machine/Assembler.lean ====
section
/-! DEFINITION. The assembler syntax of R97 and R98, read from the characters of one line: a command's bytes as the host
writes them, or a pseudo-instruction, which only the host expands. Assumption 21. -/

namespace Sys2Proof.Machine

/-- A line of assembly. -/
inductive AsmLine where
  | command (cmd : Bytes)
  | xferData (w : Wire)
  | send (p : Bytes)
deriving DecidableEq, Repr

/-- A blank. -/
def asmBlank (c : Char) : Bool := c == ' ' || c == '\t'

/-- Drop leading blanks. -/
def asmSkip (cs : List Char) : List Char := cs.dropWhile asmBlank

/-- Nothing but blanks and a comment is left (R97: `;` starts a comment). -/
def asmDone (cs : List Char) : Bool :=
  match asmSkip cs with
  | [] => true
  | c :: _ => c == ';'

/-- The value of a hexadecimal digit. -/
def hexDigit (c : Char) : Option Nat :=
  if '0'.toNat ≤ c.toNat ∧ c.toNat ≤ '9'.toNat then some (c.toNat - '0'.toNat)
  else if 'A'.toNat ≤ c.toNat ∧ c.toNat ≤ 'F'.toNat then some (c.toNat - 'A'.toNat + 10)
  else if 'a'.toNat ≤ c.toNat ∧ c.toNat ≤ 'f'.toNat then some (c.toNat - 'a'.toNat + 10)
  else none

/-- The value of a decimal digit. -/
def decDigit (c : Char) : Option Nat :=
  match hexDigit c with
  | some d => if d < 10 then some d else none
  | none => none

/-- The digits a text begins with, read in a base onto a value, and the rest of the text. -/
def asmDigits (digit : Char → Option Nat) (radix : Nat) : Nat → List Char → Nat × List Char
  | v, [] => (v, [])
  | v, c :: cs =>
    match digit c with
    | some d => asmDigits digit radix (v * radix + d) cs
    | none => (v, c :: cs)

/-- A number: decimal, or `0x` and hexadecimal (R97). -/
def asmNumber (cs : List Char) : Option (Nat × List Char) :=
  match asmSkip cs with
  | '0' :: 'x' :: c :: rest =>
    match hexDigit c with
    | some d => some (asmDigits hexDigit 16 d rest)
    | none => none
  | c :: rest =>
    match decDigit c with
    | some d => some (asmDigits decDigit 10 d rest)
    | none => none
  | [] => none

/-- A number below a bound. -/
def asmNumberBelow (bound : Nat) (cs : List Char) : Option (Nat × List Char) :=
  match asmNumber cs with
  | some (v, rest) => if v < bound then some (v, rest) else none
  | none => none

/-- A byte: a number below 256, or a character literal in single quotes (R97, format F). -/
def asmByte (cs : List Char) : Option (Byte × List Char) :=
  match asmSkip cs with
  | '\'' :: c :: '\'' :: rest => if c.toNat < 128 then some (BitVec.ofNat 8 c.toNat, rest) else none
  | t => (asmNumberBelow 256 t).map (fun r => (BitVec.ofNat 8 r.1, r.2))

/-- The rest of a string literal: ASCII bytes and `\xHH` escapes, up to the closing quote (R97). -/
def asmString : List Char → Option (Bytes × List Char)
  | '"' :: rest => some ([], rest)
  | '\\' :: 'x' :: a :: b :: rest =>
    match hexDigit a, hexDigit b, asmString rest with
    | some h, some l, some (bs, t) => some (BitVec.ofNat 8 (16 * h + l) :: bs, t)
    | _, _, _ => none
  | c :: rest =>
    if c = '\\' ∨ 128 ≤ c.toNat then none
    else
      match asmString rest with
      | some (bs, t) => some (BitVec.ofNat 8 c.toNat :: bs, t)
      | none => none
  | [] => none

/-- The hex bytes after `hex:`, with blanks allowed between bytes, up to the end of the line or a comment (R97). -/
def asmHexBytes : List Char → Option (Bytes × List Char)
  | [] => some ([], [])
  | [c] => if asmBlank c || c == ';' then some ([], [c]) else none
  | a :: b :: rest =>
    if a == ';' then some ([], a :: b :: rest)
    else if asmBlank a then asmHexBytes (b :: rest)
    else
      match hexDigit a, hexDigit b, asmHexBytes rest with
      | some h, some l, some (bs, t) => some (BitVec.ofNat 8 (16 * h + l) :: bs, t)
      | _, _, _ => none

/-- A byte string: a string literal, or `hex:` and hex bytes (R97). -/
def asmBytes (cs : List Char) : Option (Bytes × List Char) :=
  match asmSkip cs with
  | '"' :: rest => asmString rest
  | 'h' :: 'e' :: 'x' :: ':' :: rest => asmHexBytes rest
  | _ => none

/-- A wire value: `ABSENT` or a byte string (R97). -/
def asmWire (cs : List Char) : Option (Wire × List Char) :=
  match asmSkip cs with
  | 'A' :: 'B' :: 'S' :: 'E' :: 'N' :: 'T' :: rest => some (none, rest)
  | t => (asmBytes t).map (fun r => (some r.1, r.2))

/-- The comma between operands. -/
def asmComma (cs : List Char) : Option (List Char) :=
  match asmSkip cs with
  | ',' :: rest => some rest
  | _ => none

/-- The word a text begins with, and the rest. -/
def asmWord (cs : List Char) : List Char × List Char :=
  let t := asmSkip cs
  let stops := fun c => asmBlank c || c == ',' || c == ';'
  (t.takeWhile (fun c => !stops c), t.dropWhile (fun c => !stops c))

/-- The mnemonics (R94). -/
def mnemonicMap : List (String × Opcode) :=
  [("CRC32", .crc32), ("VERIFY", .verify), ("ENCODE", .encode), ("DECODE", .decode), ("IS_CORRUPT", .isCorrupt),
   ("PROPAGATE", .propagate), ("PROPAGATE_BSC", .propagateBsc), ("SUBMIT", .submit), ("ON_ACK", .onAck),
   ("ACK_IN", .ackIn), ("IS_TIMEOUT", .isTimeout), ("RETRANSMIT", .retransmit), ("ON_FRAME", .onFrame),
   ("TICK", .tick), ("READ", .read), ("READ_BUF", .readBuf), ("READ_LOG", .readLog), ("RESET", .reset)]

/-- The selector names (R39, R21). -/
def selectorNames : List (String × Selector) :=
  [("BASE", .base), ("NEXT_SEQ", .nextSeq), ("OUTSTANDING", .outstanding), ("TIMER_RUNNING", .timerRunning),
   ("TIMER_START", .timerStart), ("NOW", .now), ("EXPECTED", .expected), ("LOG_LEN", .logLen),
   ("CH_STATE", .chState), ("TX_COUNT", .txCount), ("RETX_COUNT", .retxCount), ("FAULT", .fault), ("PHASE", .phase),
   ("WINDOW_SIZE", .windowSize), ("SEQ_BITS", .seqBits), ("MAX_SEQ", .maxSeq), ("TIMEOUT", .timeout),
   ("CHANNEL_MODE", .channelMode), ("SENDER_TAG", .senderTag), ("RECEIVER_TAG", .receiverTag),
   ("MAX_PAYLOAD", .maxPayload), ("LOG_CAPACITY", .logCapacity)]

/-- Look a word up in a list of names. -/
def asmLookup {α : Type} (names : List (String × α)) (word : List Char) : Option α :=
  (names.find? (fun row => row.1.toList == word)).map (·.2)

/-- A selector: its name or a number (R97, format R). -/
def asmSelector (cs : List Char) : Option (Byte × List Char) :=
  match asmLookup selectorNames (asmWord cs).1 with
  | some sel => some (selectorByte sel, (asmWord cs).2)
  | none => (asmNumberBelow 256 cs).map (fun r => (BitVec.ofNat 8 r.1, r.2))

/-- The frame kind of format F. -/
def asmKind (cs : List Char) : Option (FrameKind × List Char) :=
  match asmLookup [("DATA", FrameKind.data), ("ACK", FrameKind.ack)] (asmWord cs).1 with
  | some k => some (k, (asmWord cs).2)
  | none => none

/-- Format F's operands: kind, `seq`, `sid`, `rid`, payload, separated by commas (R97). -/
def asmFrame (cs : List Char) : Option (Frame × List Char) := do
  let (k, t1) ← asmKind cs
  let (q, t2) ← (← asmComma t1) |> asmByte
  let (sid, t3) ← (← asmComma t2) |> asmByte
  let (rid, t4) ← (← asmComma t3) |> asmByte
  let (p, t5) ← (← asmComma t4) |> asmBytes
  return ({ kind := k, seqNum := q, payload := p, senderId := sid, receiverId := rid }, t5)

/-- The operand bytes of a command in assembly, by format (R97). -/
def asmOperands (fmt : Format) (cs : List Char) : Option (Bytes × List Char) :=
  match fmt with
  | .n => some ([], cs)
  | .s => (asmNumberBelow 256 cs).map (fun r => ([BitVec.ofNat 8 r.1], r.2))
  | .r => (asmSelector cs).map (fun r => ([r.1], r.2))
  | .t => (asmNumberBelow (2 ^ 32) cs).map (fun r => (be32 (BitVec.ofNat 32 r.1), r.2))
  | .i => (asmNumberBelow (2 ^ 16) cs).map (fun r => (be16 (BitVec.ofNat 16 r.1), r.2))
  | .f => (asmFrame cs).bind (fun r => if fitsFrame r.1.payload then some (frameRecordBytes r.1, r.2) else none)
  | .b => (asmWire cs).bind (fun r => if wireFits r.1 then some (wireBytes r.1, r.2) else none)

/-- What a parsed operand and the text after it give, if nothing is left on the line. -/
def asmEnd {α : Type} (r : Option (α × List Char)) : Option α :=
  match r with
  | some (a, rest) => if asmDone rest then some a else none
  | none => none

/-- Read one line (R97, R98): `none` where it is no command. -/
def assemble (line : List Char) : Option AsmLine :=
  let (word, rest) := asmWord line
  match asmLookup mnemonicMap word with
  | some op => (asmEnd (asmOperands (opcodeFormat op) rest)).map (fun bs => .command (opcodeByte op :: bs))
  | none =>
    if word == "XFER_DATA".toList then (asmEnd (asmWire rest)).map .xferData
    else if word == "SEND".toList then (asmEnd (asmBytes rest)).map .send
    else none

end Sys2Proof.Machine
end

