-- ==== Sys2Proof/Tests/Slice0.lean ====
section
/-! SUPPORT. The model's own tests. Expected values are those of 95_test_vectors.md, named by their ids, or are written
out from the rule named; the last part shows for each statement states and operands that meet its hypotheses. -/

namespace Sys2Proof.Tests

set_option Elab.async false

open Sys2Proof.Machine

/-! ### Helpers -/

/-- The next state an instruction answers. -/
def after (i : Instr) (s : State) : Option State :=
  match exec i s with
  | .next t => some t
  | _ => none

/-- The next state a step answers. -/
def stepped (s : State) : Option State :=
  match step s with
  | .next t => some t
  | _ => none

/-- The response an instruction gives. -/
def answer (i : Instr) (s : State) : Option Response := (after i s).bind (·.responses.getLast?)

/-- The response a step gives to a command, on the state after reset. -/
def answerTo (cmd : Bytes) : Option Response :=
  (stepped { State.reset with commands := [cmd] }).bind (·.responses.getLast?)

/-- The state after reset under another configuration. -/
def under (c : Cfg) : State := { State.reset with cfg := c, cfgPort := c }

/-- C0 on a Gilbert-Elliott channel. -/
def geCfg (p r k h : Prob) : Cfg := { Cfg.c0 with modeCode := 1, probP := p, probR := r, probK := k, probH := h }

/-- A DATA frame of C0's sender. -/
def dataFrame (q : Byte) (p : Bytes) : Frame :=
  { kind := .data, seqNum := q, payload := p, senderId := 0x53, receiverId := 0x52 }

/-- A full window of frames with payload "X", timer running since 0; the slots in rising order. -/
def window (base next : Byte) (slots : List Nat) : State :=
  { State.reset with
    base := base, nextSeq := next, timerRunning := true
    buf := slots.map (fun q => (q, dataFrame (BitVec.ofNat 8 q) [0x58])) }

/-- Frame "A" numbered 0 (V-C3). -/
def frameA : Bytes := [0x21, 0x8E, 0x29, 0x24, 0x00, 0x00, 0x53, 0x52, 0x41]

/-- Frame "B" numbered 1 (V-C5d). -/
def frameB : Bytes := [0x85, 0xE7, 0x51, 0x2E, 0x01, 0x00, 0x53, 0x52, 0x42]

/-- Frame "A" with payload bit 7 flipped (V-C10). -/
def frameBad : Bytes := [0x21, 0x8E, 0x29, 0x24, 0x00, 0x00, 0x53, 0x52, 0xC1]

/-- The ACK numbered 0 (V-C7). -/
def ack0 : Bytes := [0x5A, 0x69, 0x8A, 0xB3, 0x00, 0x01, 0x52, 0x53]

/-- The ACK numbered 1 (V-C5c). -/
def ack1 : Bytes := [0xE2, 0xD5, 0xED, 0xD6, 0x01, 0x01, 0x52, 0x53]

/-- Slots taken. -/
def slots (s : State) : List Nat := s.buf.map (·.1)

/-! ### Well-formedness: each check refuses a term -/

theorem fitsOperand_replicate (n : Nat) : fitsOperand (List.replicate n 0) = decide (n ≤ 65535) := by
  simp [fitsOperand, maxOperandBytes]

theorem fitsFrame_replicate (n : Nat) : fitsFrame (List.replicate n 0) = decide (n ≤ 65527) := by
  simp [fitsFrame, maxFramePayload]

theorem test_wf_operand_refused :
    Instr.wellFormed (.crc32 (List.replicate 65536 0)) = false ∧
    Instr.wellFormed (.crc32 (List.replicate 65535 0)) = true :=
  ⟨fitsOperand_replicate 65536, fitsOperand_replicate 65535⟩

theorem test_wf_wire_refused :
    Instr.wellFormed (.onFrame (some (List.replicate 65536 0))) = false ∧
    Instr.wellFormed (.onFrame (some (List.replicate 65535 0))) = true ∧
    Instr.wellFormed (.onFrame none) = true :=
  ⟨fitsOperand_replicate 65536, fitsOperand_replicate 65535, rfl⟩

theorem test_wf_frame_record_refused :
    Instr.wellFormed (.encode (dataFrame 0 (List.replicate 65528 0))) = false ∧
    Instr.wellFormed (.encode (dataFrame 0 (List.replicate 65527 0))) = true :=
  ⟨fitsFrame_replicate 65528, fitsFrame_replicate 65527⟩

theorem test_wf_wire_frame_refused :
    Instr.wellFormed (.frameData 0 0 0 (List.replicate 65528 0)) = false ∧
    Instr.wellFormed (.frameAck 0 0 0 []) = true :=
  ⟨fitsFrame_replicate 65528, rfl⟩

/-! ### Decoding: a word of each constructor, written out from R86-R94 -/

/-- Opcodes 0x01 to 0x05. -/
theorem test_decode_codec_words :
    decode [0x01, 0x01, 0x00, 0x09, 0x31, 0x32, 0x33, 0x34, 0x35, 0x36, 0x37, 0x38, 0x39] =
      .ok (.crc32 [0x31, 0x32, 0x33, 0x34, 0x35, 0x36, 0x37, 0x38, 0x39]) ∧
    decode [0x02, 0x01, 0x00, 0x03, 0x00, 0x01, 0x02] = .ok (.verify [0x00, 0x01, 0x02]) ∧
    decode [0x03, 0x00, 0x00, 0x53, 0x52, 0x00, 0x01, 0x41] = .ok (.encode (dataFrame 0 [0x41])) ∧
    decode [0x04, 0x01, 0x00, 0x00] = .ok (.decode []) ∧
    decode [0x05] = .ok .isCorrupt := by decide +kernel

/-- Opcodes 0x10 and 0x11. -/
theorem test_decode_channel_words :
    decode [0x10, 0x01, 0x00, 0x01, 0x00] = .ok (.propagate (some [0x00])) ∧
    decode [0x10, 0x00, 0x00, 0x00] = .ok (.propagate none) ∧
    decode [0x11, 0x01, 0x00, 0x01, 0x0F] = .ok (.propagateBsc (some [0x0F])) := by decide +kernel

/-- Opcodes 0x20 to 0x24. -/
theorem test_decode_sender_words :
    decode [0x20, 0x01, 0x00, 0x01, 0x41] = .ok (.submit [0x41]) ∧
    decode [0x21, 0x01] = .ok (.onAck 1) ∧
    decode [0x22, 0x01, 0x00, 0x08, 0xE2, 0xD5, 0xED, 0xD6, 0x01, 0x01, 0x52, 0x53] = .ok (.ackIn (some ack1)) ∧
    decode [0x23] = .ok .isTimeout ∧
    decode [0x24] = .ok .retransmit := by decide +kernel

/-- Opcode 0x30. -/
theorem test_decode_receiver_words :
    decode [0x30, 0x01, 0x00, 0x09, 0x21, 0x8E, 0x29, 0x24, 0x00, 0x00, 0x53, 0x52, 0x41] =
      .ok (.onFrame (some frameA)) ∧
    decode [0x30, 0x00, 0x00, 0x00] = .ok (.onFrame none) ∧
    decode [0x30, 0x01, 0x00, 0x00] = .ok (.onFrame (some [])) := by decide +kernel

/-- Opcodes 0x40 to 0x43 and 0xFF. -/
theorem test_decode_control_words :
    decode [0x40, 0x12, 0x34, 0x56, 0x78] = .ok (.tick 0x12345678) ∧
    decode [0x41, 0x18] = .ok (.read .logCapacity) ∧
    decode [0x42, 0x09] = .ok (.readBuf 9) ∧
    decode [0x43, 0x01, 0x02] = .ok (.readLog 0x0102) ∧
    decode [0xFF] = .ok .reset := by decide +kernel

/-- Wire frames (R80): V-C3 and V-C5c. -/
theorem test_decode_wire_words :
    decodeWire frameA = some (.frameData 0 0x53 0x52 [0x41]) ∧
    decodeWire ack1 = some (.frameAck 1 0x52 0x53 []) ∧
    decodeWire frameBad = none := by decide +kernel

/-- Illegal commands (R85, R95): V-K2, V-K3, V-K7, V-S9, V-C5e, a bad `pres`, bytes with `ABSENT`, an empty command. -/
theorem test_decode_refuses :
    decode [0x00] = .error (.unknownOpcode 0x00) ∧
    decode [0x41, 0x20] = .error .badSelector ∧
    decode [0x20, 0x01, 0x00, 0x01, 0x41, 0x00] = .error .wrongLength ∧
    decode [0x20, 0x00, 0x00, 0x00] = .error .absentOperand ∧
    decode [0x03, 0x02, 0x00, 0x53, 0x52, 0x00, 0x00] = .error .badKind ∧
    decode [0x10, 0x02, 0x00, 0x00] = .error .badPresence ∧
    decode [0x10, 0x00, 0x00, 0x01, 0x41] = .error .badPresence ∧
    decode [0x23, 0x00] = .error .wrongLength ∧
    decode [] = .error .noOpcode := by decide +kernel

/-- The opcode table's numbering of bits: a row's word runs as the next command. -/
theorem test_table_word_runs :
    decodeTableWord 8 0x40 = some (.tick 0) ∧
    decodeTableWord 8 0x10 = some (.propagate none) ∧
    decodeTableWord 8 0x20 = none ∧
    (State.reset.withFetchWord 8 0x40).commands = [[0x40, 0x00, 0x00, 0x00, 0x00]] ∧
    (State.reset.withFetchWord 40 0x0500000040).commands = [[0x40, 0x00, 0x00, 0x00, 0x05]] := by decide +kernel

/-! ### The assembler (R97) -/

theorem test_assemble_submit :
    assemble ['S', 'U', 'B', 'M', 'I', 'T', ' ', '"', 'A', '"'] = some (.command [0x20, 0x01, 0x00, 0x01, 0x41]) := by
  decide +kernel

theorem test_assemble_tick :
    assemble ['T', 'I', 'C', 'K', ' ', '0', 'x', '1', '0', ' ', ';', 'c'] =
      some (.command [0x40, 0x00, 0x00, 0x00, 0x10]) := by
  decide +kernel

/-! ### The end of a run (R237, R257) -/

/-- A log that holds the target ends the run, but never on a halted block. -/
theorem test_runVerdict :
    runVerdict 0 State.reset = .ended ∧ runVerdict 1 State.reset = .goesOn ∧
    runVerdict 0 { State.reset with fault := 0x10 } = .stoppedHalted ∧
    runEnded 0 { State.reset with fault := 0x10 } = false := by decide +kernel

/-! ### Sequence arithmetic and the buffer -/

/-- S3: `base = 0`, `N = 4`, `MAX_SEQ = 8`. -/
theorem test_window_S3 :
    ∀ q : Byte, q.toNat < 8 → (inWindow State.reset q = true ↔ q.toNat < 4) := by decide +kernel

/-- S4: `base = 6`. -/
theorem test_window_S4 :
    ∀ q : Byte, q.toNat < 8 →
      (inWindow (window 6 6 []) q = true ↔ q = 6 ∨ q = 7 ∨ q = 0 ∨ q = 1) := by decide +kernel

/-- R11: `(1 - 3) mod 8 = 6`. -/
theorem test_modulus : seqDist 8 1 3 = 6 := by decide +kernel

/-- Writing keeps slots in order, writing a slot twice keeps one entry, deleting removes it (R63). -/
theorem test_buffer_canonical :
    let a := dataFrame 0 [0x41]
    let b := dataFrame 1 [0x42]
    bufWrite 0 a (bufWrite 1 b []) = [(0, a), (1, b)] ∧ bufWrite 1 b (bufWrite 1 a []) = [(1, b)] ∧
    bufDel 1 [(0, a), (1, b)] = [(0, a)] ∧ bufDel 2 [(0, a)] = [(0, a)] := by decide +kernel

/-! ### One step of each instruction -/

/-- V-C1. -/
theorem test_crc32_check_value :
    answer (.crc32 [0x31, 0x32, 0x33, 0x34, 0x35, 0x36, 0x37, 0x38, 0x39]) State.reset =
      some { status := .ok, outputs := [.word32 0xCBF43926] } := by decide +kernel

/-- V-C2. -/
theorem test_crc32_empty :
    answer (.crc32 []) State.reset = some { status := .ok, outputs := [.word32 0] } := by decide +kernel

/-- V-V1. -/
theorem test_verify_match :
    answer (.verify [0x6A, 0xF4, 0x41, 0x3C, 0x03, 0x00]) State.reset =
      some { status := .ok, outputs := [.flag true, .word32 0x6AF4413C, .word32 0x6AF4413C] } := by decide +kernel

/-- V-V3. -/
theorem test_verify_short :
    answer (.verify [0, 0, 0]) State.reset =
      some { status := .ok, outputs := [.flag false, .word32 0, .word32 0] } := by decide +kernel

/-- V-C3. -/
theorem test_encode_data :
    answer (.encode (dataFrame 0 [0x41])) State.reset =
      some { status := .ok, outputs := [.wire (some frameA)] } := by decide +kernel

/-- V-C5b: the number 255 is not checked against `MAX_SEQ`. -/
theorem test_encode_seq_255 :
    answer (.encode (dataFrame 255 [0x00, 0xFF])) State.reset =
      some { status := .ok, outputs :=
        [.wire (some [0xCE, 0x84, 0xBF, 0x70, 0xFF, 0x00, 0x53, 0x52, 0x00, 0xFF])] } := by decide +kernel

/-- V-C6. -/
theorem test_decode_valid :
    answer (.decode frameA) State.reset =
      some { status := .ok, outputs := [.flag true, .byte 0, .byte 0, .frame (dataFrame 0 [0x41])] } ∧
    (after (.decode frameA) State.reset).map (·.dr) = some (some (.valid (dataFrame 0 [0x41]))) := by decide +kernel

/-- V-C12, V-C13, V-C14, V-C15, V-C9, V-C9b: the order of the checks and the diagnostic number. -/
theorem test_decode_classes :
    decodeFrame [0x6A, 0xF4, 0x41, 0x3C, 0x03, 0x00] = .corrupt .structural 3 ∧
    decodeFrame [0x0F, 0x65, 0x67, 0x05, 0x03, 0x00, 0x53] = .corrupt .structural 3 ∧
    decodeFrame [0x00, 0x00, 0x00, 0x00, 0x03, 0x00] = .corrupt .integrity 3 ∧
    decodeFrame [0x21, 0x02, 0xCF, 0x67, 0x04, 0x02, 0x53, 0x52, 0x78] = .corrupt .structural 4 ∧
    decodeFrame [0x00, 0x00, 0x00, 0x00, 0x07] = .corrupt .structural 7 ∧
    decodeFrame [0x00, 0x00, 0x00, 0x00] = .corrupt .structural 0 := by decide +kernel

/-- V-C16. -/
theorem test_isCorrupt_none :
    answer .isCorrupt State.reset = some { status := .fault, outputs := [] } ∧
    (after .isCorrupt State.reset).map (·.fault) = some 0x02 := by decide +kernel

/-- V-C17. -/
theorem test_isCorrupt_corrupt :
    ((after (.decode frameBad) State.reset).bind (answer .isCorrupt)) =
      some { status := .ok, outputs := [.flag true] } := by decide +kernel

/-- V-H4. -/
theorem test_propagate_ge_alternates :
    answer (.propagate (some [0x00])) (under (geCfg 1 1 0 1)) =
      some { status := .ok, outputs := [.wire (some [0xAA])] } ∧
    (after (.propagate (some [0x00])) (under (geCfg 1 1 0 1))).map (·.chState) = some .good := by decide +kernel

/-- V-H6: the host's answers go to the error draws alone; visit 64 is byte 8, bit 7. -/
theorem test_propagate_ge_bit_order :
    answer (.propagate (some frameA))
      { under (geCfg 0 0 (1 / 2) 1) with
        entropy := { answers := List.replicate 64 false ++ [true] ++ List.replicate 7 false, drawn := [] } } =
      some { status := .ok, outputs := [.wire (some frameBad)] } := by decide +kernel

/-- V-H7. -/
theorem test_propagateBsc_inverts :
    answer (.propagateBsc (some [0x0F])) (under { Cfg.c0 with modeCode := 2, bscP := 1 }) =
      some { status := .ok, outputs := [.wire (some [0xF0])] } := by decide +kernel

/-- V-H8: `ch_state` stays GOOD. -/
theorem test_propagateBsc_keeps_chState :
    (after (.propagateBsc (some [0x00])) (under { geCfg 1 0 0 0 with bscP := 1 })).map (·.chState) = some .good := by
  decide +kernel

/-- V-S1, and the response's bytes (R96). -/
theorem test_submit_first :
    (after (.submit [0x41]) State.reset).map (fun t =>
      (t.nextSeq, t.txCount, t.timerRunning, t.timerStart, bufRead 0 t.buf)) =
      some (1, 1, true, 0, some (dataFrame 0 [0x41])) ∧
    (answer (.submit [0x41]) State.reset).map responseBytes =
      some ([0x00, 0x00, 0x01, 0x00, 0x09] ++ frameA) := by decide +kernel

/-- V-S4: the number 7 is used and `next_seq` wraps to 0. -/
theorem test_submit_wraps :
    (after (.submit [0x58]) (window 6 7 [6])).map (fun t => (t.nextSeq, slots t)) = some (0, [6, 7]) := by
  decide +kernel

/-- V-A4: `base` 5, `next_seq` 1, ACK 0. -/
theorem test_onAck_wraps :
    (after (.onAck 0) { window 5 1 [0, 5, 6, 7] with now := 9 }).map (fun t =>
      (t.base, slots t, t.timerRunning, t.timerStart)) = some (0, [0], true, 9) ∧
    answer (.onAck 0) (window 5 1 [0, 5, 6, 7]) = some { status := .ok, outputs := [.byte 3] } := by decide +kernel

/-- V-A8: the literal advance, then the fault. -/
theorem test_onAck_beyond_next :
    (after (.onAck 4) (window 0 3 [0, 1, 2])).map (fun t => (t.base, slots t, t.timerRunning, t.fault)) =
      some (4, [], true, 0x04) := by decide +kernel

/-- V-A13. -/
theorem test_ackIn_ack :
    answer (.ackIn (some ack1)) (window 0 1 [0]) = some { status := .ok, outputs := [.byte 1] } ∧
    (after (.ackIn (some ack1)) (window 0 1 [0])).map (fun t => (t.base, slots t, t.timerRunning)) =
      some (1, [], false) := by decide +kernel

/-- V-A15. -/
theorem test_ackIn_data :
    answer (.ackIn (some frameB)) (window 0 1 [0]) = some { status := .notAck, outputs := [] } := by decide +kernel

/-- V-T1, V-T2: strictly more than TIMEOUT. -/
theorem test_isTimeout_boundary :
    answer .isTimeout { window 0 1 [0] with now := 10 } = some { status := .ok, outputs := [.flag false] } ∧
    answer .isTimeout { window 0 1 [0] with now := 11 } = some { status := .ok, outputs := [.flag true] } := by
  decide +kernel

/-- V-T2: it disarms itself. -/
theorem test_isTimeout_disarms :
    (after .isTimeout { window 0 1 [0] with now := 11 }).map (·.timerRunning) = some false := by decide +kernel

/-- V-T5. -/
theorem test_retransmit_window :
    let s := { State.reset with
      nextSeq := 2, now := 11, buf := [(0, dataFrame 0 [0x41]), (1, dataFrame 1 [0x42])] }
    answer .retransmit s = some { status := .ok, outputs := [.wires [some frameA, some frameB]] } ∧
    (after .retransmit s).map (fun t => (t.retxCount, t.timerRunning, t.timerStart)) = some (2, true, 11) := by
  decide +kernel

/-- V-T7: the frames 6, 7, 0 in that order. -/
theorem test_retransmit_order : (windowFrames (window 6 1 [0, 6, 7])).map (·.seqNum) = [6, 7, 0] := by decide +kernel

/-- V-R1. -/
theorem test_onFrame_accepts :
    answer (.onFrame (some frameA)) State.reset = some { status := .ok, outputs := [.wire (some ack1)] } ∧
    (after (.onFrame (some frameA)) State.reset).map (fun t => (t.expected, t.log)) = some (1, [[0x41]]) := by
  decide +kernel

/-- V-R2. -/
theorem test_onFrame_duplicate :
    answer (.onFrame (some frameA)) { State.reset with expected := 1 } =
      some { status := .outOfOrder, outputs := [.wire (some ack1)] } := by decide +kernel

/-- V-K4. -/
theorem test_tick : (after (.tick 5) { State.reset with now := 5 }).map (·.now) = some 10 := by decide +kernel

/-- V-K1: `READ FAULT` of a halted block. -/
theorem test_read_fault_while_halted :
    answer (.read .fault) { State.reset with fault := 0x10 } = some { status := .ok, outputs := [.word64 16] } := by
  decide +kernel

/-- R39: an unbounded LOG_CAPACITY reads as all ones. -/
theorem test_read_log_capacity :
    answer (.read .logCapacity) State.reset =
      some { status := .ok, outputs := [.word64 0xFFFFFFFFFFFFFFFF] } := by decide +kernel

/-- V-K6. -/
theorem test_readBuf_out_of_range :
    answer (.readBuf 9) State.reset = some { status := .noEntry, outputs := [] } := by decide +kernel

/-- V-K5. -/
theorem test_readLog_empty :
    answer (.readLog 0) State.reset = some { status := .noEntry, outputs := [] } := by decide +kernel

/-- V-K1. -/
theorem test_reset_illegal_configuration :
    (after .reset { State.reset with cfgPort := { Cfg.c0 with windowSize := 8 } }).map (·.fault) = some 0x10 ∧
    answer (.submit [0x41]) { State.reset with fault := 0x10 } = some { status := .halted, outputs := [] } := by
  decide +kernel

/-- Assumption 14: a DATA frame by itself (V-C3). -/
theorem test_frameData :
    encode (.frameData 0 0x53 0x52 [0x41]) = frameA ∧
    answer (.frameData 0 0x53 0x52 [0x41]) State.reset =
      some { status := .ok, outputs := [.flag true, .byte 0, .byte 0, .frame (dataFrame 0 [0x41])] } := by
  decide +kernel

/-- Assumption 14: an ACK frame by itself (V-C7). -/
theorem test_frameAck : encode (.frameAck 0 0x52 0x53 []) = ack0 := by decide +kernel

/-- V-K7, through the step: one extra byte. -/
theorem test_step_illegal_command :
    answerTo [0x20, 0x01, 0x00, 0x01, 0x41, 0x00] = some { status := .fault, outputs := [] } ∧
    answerTo [0x20, 0x01, 0x00, 0x01, 0x41] =
      some { status := .ok, outputs := [.byte 0, .wire (some frameA)] } := by decide +kernel

/-! ### Witnesses: states and operands that meet the statements' hypotheses

Statements whose hypotheses are only `s.running` are met by `test_witness_running`. -/

theorem test_witness_running : State.reset.running := by decide +kernel

/-- PropagateAppliesTheMode: a running state in each mode. -/
theorem test_witness_modes :
    ∀ m : BitVec 3, m.toNat ≤ 4 → (under { Cfg.c0 with modeCode := m }).running := by decide +kernel

/-- EncodedCommandsDecodeBack, AcceptedBytesAreTheEncoding, LegalCommandsHaveTheirLength. -/
theorem test_witness_encoding :
    Instr.wellFormed (.submit [0x41]) = true ∧ Instr.isCommand (.submit [0x41]) = true ∧
    decode [0x20, 0x01, 0x00, 0x01, 0x41] = .ok (.submit [0x41]) := by decide +kernel

/-- UnlistedOpcodesAreIllegal, at the edges of the map. -/
theorem test_witness_unlisted :
    ∀ b ∈ [(0x00 : Byte), 0x06, 0x0F, 0x12, 0x1F, 0x25, 0x31, 0x44, 0xFE],
      b ∉ [(0x01 : Byte), 0x02, 0x03, 0x04, 0x05, 0x10, 0x11, 0x20, 0x21, 0x22, 0x23, 0x24, 0x30, 0x40, 0x41, 0x42,
        0x43, 0xFF] := by decide +kernel

/-- DecodeClassifiesInOrder, one byte string a clause, at the lengths 5, 6, 7 and 8. -/
theorem test_witness_classes :
    [0x00, 0x00, 0x00, 0x00, (0x07 : Byte)].length < 6 ∧
    (let b : Bytes := [0x00, 0x00, 0x00, 0x00, 0x03, 0x00]
     6 ≤ b.length ∧ embeddedChecksum b ≠ crc32 (b.drop 4)) ∧
    (let b : Bytes := [0x0F, 0x65, 0x67, 0x05, 0x03, 0x00, 0x53]
     6 ≤ b.length ∧ embeddedChecksum b = crc32 (b.drop 4) ∧ b.length < 8) ∧
    (let b : Bytes := [0x21, 0x02, 0xCF, 0x67, 0x04, 0x02, 0x53, 0x52, 0x78]
     8 ≤ b.length ∧ embeddedChecksum b = crc32 (b.drop 4) ∧ b.getD 5 0 ≠ 0x00 ∧ b.getD 5 0 ≠ 0x01) ∧
    (8 ≤ frameA.length ∧ embeddedChecksum frameA = crc32 (frameA.drop 4) ∧ frameA.getD 5 0 = 0x00) ∧
    (8 ≤ ack0.length ∧ embeddedChecksum ack0 = crc32 (ack0.drop 4) ∧ ack0.getD 5 0 = 0x01) := by decide +kernel

/-- ValidBytesAreTheFramesEncoding, SingleBitFlipsAreDetected (the last bit). -/
theorem test_witness_codec :
    decodeFrame frameA = .valid (dataFrame 0 [0x41]) ∧ 71 < 8 * (encodeFrame (dataFrame 0 [0x41])).length := by
  decide +kernel

/-- StepRunsTheOldestCommand, IllegalCommandsOnlyFault, and the second clause of HaltedBlockOnlyAnswersHalted. -/
theorem test_witness_pending :
    ({ State.reset with commands := [[0x23], [0x24]] } : State).commands = [0x23] :: [[0x24]] ∧
    decode [0x23] = .ok .isTimeout ∧ decode [0x00] = .error (.unknownOpcode 0x00) ∧
    State.reset.fault = 0 ∧ ({ State.reset with fault := 0x01 } : State).fault ≠ 0 ∧
    ([0x00] : Bytes).head? ≠ some 0x41 ∧ ([0x00] : Bytes).head? ≠ some 0xFF := by decide +kernel

/-- IdleStepKeepsAllState. -/
theorem test_witness_idle : State.reset.commands = [] := rfl

/-- The first clause of HaltedBlockOnlyAnswersHalted. -/
theorem test_witness_halted_instr : Instr.isTimeout ≠ .reset ∧ ∀ sel, Instr.isTimeout ≠ .read sel :=
  ⟨by decide, fun sel => by cases sel <;> decide⟩

/-- EveryStepAnswersANextState: a running state and one that RESET halted. -/
theorem test_witness_next :
    (State.reset.fault = 0 → cfgLegal State.reset.cfg = true) ∧
    (let s := { under { Cfg.c0 with windowSize := 8 } with fault := 0x10 }
     cfgLegal s.cfg = false ∧ (s.fault = 0 → cfgLegal s.cfg = true)) := by decide +kernel

/-- The statements whose hypothesis is that `exec` answers a next state: OneResponsePerCommand, ReadsChangeNoState,
TimerDiscipline, LogIsAppendOnly, RegisterWriters and FaultBitsAreSticky (an instruction other than RESET). -/
theorem test_witness_exec_next :
    (after (.tick 1) State.reset).isSome = true ∧ (after (.decode frameA) State.reset).isSome = true ∧
    (after (.crc32 []) State.reset).isSome = true ∧ (after .reset State.reset).isSome = true ∧
    (after (.readBuf 0) State.reset).isSome = true ∧ (after (.readLog 0) State.reset).isSome = true ∧
    (after (.verify []) State.reset).isSome = true ∧ (after (.read .base) State.reset).isSome = true ∧
    (after (.encode (dataFrame 0 [])) State.reset).isSome = true ∧ Instr.tick 1 ≠ .reset := by decide +kernel

/-- TimerDiscipline: the timer started, stopped and restarted by each of the commands that may. -/
theorem test_witness_timer :
    (after (.submit [0x41]) { State.reset with now := 5 }).map (fun t => (t.timerRunning, t.timerStart)) =
      some (true, 5) ∧
    (after .retransmit { window 0 1 [0] with now := 5 }).map (·.timerStart) = some 5 ∧
    (after (.onAck 1) { window 0 2 [0, 1] with now := 5, timerRunning := false }).map (fun t =>
      (t.timerRunning, t.timerStart, t.base)) = some (true, 5, 1) ∧
    (after (.onAck 2) (window 0 2 [0, 1])).map (·.timerRunning) = some false ∧
    (after .isTimeout { window 0 1 [0] with now := 11 }).map (·.timerRunning) = some false := by decide +kernel

/-- FaultBitsAreSticky: each bit newly set, by an instruction or, bit 0, by a step; and a set bit that stays. -/
theorem test_witness_fault_bits :
    (after .isCorrupt State.reset).map (·.fault) = some 0x02 ∧
    (after (.onAck 1) State.reset).map (·.fault) = some 0x04 ∧
    (after (.ackIn (some ack1)) State.reset).map (·.fault) = some 0x04 ∧
    (after (.onFrame (some frameA)) (under { Cfg.c0 with logCapacity := some 0 })).map (·.fault) = some 0x08 ∧
    (after .reset { State.reset with cfgPort := { Cfg.c0 with windowSize := 8 } }).map (·.fault) = some 0x10 ∧
    (stepped { State.reset with commands := [[0x00]] }).map (·.fault) = some 0x01 ∧
    (after .isCorrupt { State.reset with fault := 0x08 }).map (·.fault) = some 0x08 := by decide +kernel

/-- VerifyComparesTheCodes, at lengths 3 and 4. -/
theorem test_witness_verify :
    ([0, 0, 0] : Bytes).length < 4 ∧ ([0, 0, 0, 0] : Bytes) = 0 :: 0 :: 0 :: 0 :: [] := by decide +kernel

/-- DecodeWritesAndAnswersTheResult and IsCorruptReportsTheLastDecode, one byte string and one DR a clause. -/
theorem test_witness_results :
    decodeFrame frameA = .valid (dataFrame 0 [0x41]) ∧ decodeFrame [] = .corrupt .structural 0 ∧
    decodeFrame frameBad = .corrupt .integrity 0 ∧ State.reset.dr = none ∧
    ({ State.reset with dr := some (.corrupt .structural 0) } : State).running ∧
    ({ State.reset with dr := some (.valid (dataFrame 0 [])) } : State).running := by decide +kernel

/-- DrawsAreForcedOrTheHosts: a free draw with an answer waiting. -/
theorem test_witness_draw : (1 / 2 : Prob) ≠ 0 ∧ (1 / 2 : Prob) ≠ 1 ∧ ([true] : List Bool) = true :: [] := by
  decide +kernel

/-- NothingCrossesAsAbsent, and the non-empty inputs of NothingCrossesAsAbsent, CrossingDrawCounts,
GeWithoutErrorsOrTransitions, BscOfOneInvertsEveryBit and GeBitTransitionsFirst. -/
theorem test_witness_wires :
    ((none : Wire) = none ∨ (none : Wire) = some []) ∧ ((some [] : Wire) = none ∨ (some [] : Wire) = some []) ∧
    ([0] : Bytes) ≠ [] ∧ (geCfg 1 1 0 0).probK = 0 ∧ (geCfg 1 1 0 0).probH = 0 ∧ (geCfg 0 0 1 1).probP = 0 ∧
    (geCfg 0 0 1 1).probR = 0 := by decide +kernel

/-- A lost and a passed frame in both loss modes: NothingCrossesAsAbsent and CrossingDrawCounts; and a hit and a miss of a
free draw: BscOfOneInvertsEveryBit. -/
theorem test_witness_loss :
    (∀ m ∈ [(3 : BitVec 3), 4],
      (under { Cfg.c0 with modeCode := m, probLoss := 1 }).running ∧
      drawResult { Cfg.c0 with modeCode := m, probLoss := 1 }.probLoss State.reset.entropy = true ∧
      drawResult { Cfg.c0 with modeCode := m, probLoss := 0 }.probLoss State.reset.entropy = false) ∧
    drawResult (1 / 2) { answers := [true], drawn := [] } = true ∧
    drawResult (1 / 2) { answers := [false], drawn := [] } = false := by decide +kernel

/-- CrossingKeepsLength. -/
theorem test_witness_crossing :
    (propagate Cfg.c0 (some [0x41]) .good State.reset.entropy).wire = some [0x41] := by decide +kernel

/-- GeBitTransitionsFirst: both results of the draw in both states, and a bit of a byte string. -/
theorem test_witness_ge_bit :
    drawResult (geCfg 1 0 0 0).probP State.reset.entropy = true ∧
    drawResult (geCfg 0 0 0 0).probP State.reset.entropy = false ∧
    drawResult (geCfg 0 1 0 0).probR State.reset.entropy = true ∧
    drawResult (geCfg 0 0 0 0).probR State.reset.entropy = false ∧
    0 < ([0] : Bytes).length := by decide +kernel

/-- SubmitAdmitsIntoTheWindow: an empty window with the longest payload, and a window with one place left. -/
theorem test_witness_submit :
    State.reset.seqsInRange ∧ (List.replicate 16 (0 : Byte)).length ≤ State.reset.cfg.maxPayload.toNat ∧
    outstanding State.reset < State.reset.cfg.windowSize.toNat ∧ State.reset.base = State.reset.nextSeq ∧
    (let s := window 0 3 [0, 1, 2]
     s.running ∧ s.seqsInRange ∧ outstanding s < s.cfg.windowSize.toNat ∧ s.base ≠ s.nextSeq) := by decide +kernel

/-- SubmitRejectsInOrder: 17 bytes, and 16 bytes with a full window. -/
theorem test_witness_submit_rejected :
    State.reset.cfg.maxPayload.toNat < (List.replicate 17 (0 : Byte)).length ∧
    (let s := window 0 4 [0, 1, 2, 3]
     s.running ∧ (List.replicate 16 (0 : Byte)).length ≤ s.cfg.maxPayload.toNat ∧
       s.cfg.windowSize.toNat ≤ outstanding s) := by decide +kernel

/-- OnAckRejectsWithoutChange: the first number out of range, a duplicate, and the first stale distance. -/
theorem test_witness_onAck_rejected :
    let s := window 5 1 [0, 5, 6, 7]
    s.running ∧ maxSeq s.cfg ≤ (8 : Byte).toNat ∧ (5 : Byte).toNat < maxSeq s.cfg ∧
    seqDist (maxSeq s.cfg) 5 s.base = 0 ∧ (2 : Byte).toNat < maxSeq s.cfg ∧
    seqDist (maxSeq s.cfg) 2 s.base = maxSeq s.cfg / 2 + 1 := by decide +kernel

/-- OnAckAdvancesTheWindow: distance 4 = `M / 2` = outstanding, and distance 1 below outstanding. -/
theorem test_witness_onAck_advances :
    let s := window 5 1 [0, 5, 6, 7]
    s.running ∧ s.seqsInRange ∧ Buf.wf s.buf = true ∧
    (1 : Byte).toNat < maxSeq s.cfg ∧ seqDist (maxSeq s.cfg) 1 s.base = maxSeq s.cfg / 2 ∧
    seqDist (maxSeq s.cfg) 1 s.base = outstanding s ∧
    (6 : Byte).toNat < maxSeq s.cfg ∧ seqDist (maxSeq s.cfg) 6 s.base = 1 ∧
    seqDist (maxSeq s.cfg) 6 s.base < outstanding s ∧ 1 ≤ maxSeq s.cfg / 2 := by decide +kernel

/-- OnAckBeyondNextHalts: V-A8 (distance `M / 2`) and V-A9 (distance 1, empty window). -/
theorem test_witness_onAck_beyond :
    (let s := window 0 3 [0, 1, 2]
     s.running ∧ s.seqsInRange ∧ Buf.wf s.buf = true ∧ (4 : Byte).toNat < maxSeq s.cfg ∧
       outstanding s < seqDist (maxSeq s.cfg) 4 s.base ∧ seqDist (maxSeq s.cfg) 4 s.base = maxSeq s.cfg / 2) ∧
    (let s := State.reset
     s.seqsInRange ∧ Buf.wf s.buf = true ∧ outstanding s < seqDist (maxSeq s.cfg) 1 s.base ∧
       seqDist (maxSeq s.cfg) 1 s.base = 1) := by decide +kernel

/-- AckInDropsWhatIsNoAck: structurally corrupt, corrupt, DATA. -/
theorem test_witness_ackIn_dropped :
    ([0x00] : Bytes) ≠ [] ∧ decodeFrame [0x00] = .corrupt .structural 0 ∧
    decodeFrame frameBad = .corrupt .integrity 0 ∧
    decodeFrame frameB = .valid (dataFrame 1 [0x42]) ∧ (dataFrame 1 [0x42]).kind = .data := by decide +kernel

/-- The advancing clause of AckInOfAnAckIsOnAck. -/
theorem test_witness_ackIn_advances :
    let s := window 0 1 [0]
    s.running ∧ s.seqsInRange ∧ Buf.wf s.buf = true ∧ (1 : Byte).toNat < maxSeq s.cfg ∧
    0 < seqDist (maxSeq s.cfg) 1 s.base ∧ seqDist (maxSeq s.cfg) 1 s.base ≤ maxSeq s.cfg / 2 ∧
    seqDist (maxSeq s.cfg) 1 s.base ≤ outstanding s := by decide +kernel

/-- IsTimeoutFiresAndDisarms: 11 ticks and 10 ticks, TIMEOUT being 10. -/
theorem test_witness_timeout :
    (let s := { window 0 1 [0] with now := 11 }
     s.running ∧ s.timerRunning = true ∧ s.timerStart + s.cfg.timeout < s.now) ∧
    (let s := { window 0 1 [0] with now := 10 }
     s.running ∧ s.now ≤ s.timerStart + s.cfg.timeout) ∧ State.reset.timerRunning = false := by decide +kernel

/-- RetransmitSendsTheWindow: an empty window, and one across the wrap. -/
theorem test_witness_retransmit :
    State.reset.seqsInRange ∧ State.reset.base = State.reset.nextSeq ∧
    (let s := window 6 1 [0, 6, 7]
     s.running ∧ s.seqsInRange ∧ s.base ≠ s.nextSeq) := by decide +kernel

/-- A window across the wrap meets the invariant: IdealRetransmitIsTheWholeWindow, SenderPhaseTransitions (the timer
running) and EveryStepKeepsTheInvariant. -/
theorem test_witness_inv_window : (window 6 1 [0, 6, 7]).inv := by
  have hslots : ∀ q f, bufRead q (window 6 1 [0, 6, 7]).buf = some f →
      (q = 0 ∧ f = dataFrame 0 [0x58]) ∨ (q = 6 ∧ f = dataFrame 6 [0x58]) ∨ (q = 7 ∧ f = dataFrame 7 [0x58]) := by
    intro q f h
    simp only [window, List.map_cons, List.map_nil, bufRead] at h
    split at h
    · exact .inl ⟨by omega, by simpa using h.symm⟩
    · split at h
      · exact .inr (.inl ⟨by omega, by simpa using h.symm⟩)
      · split at h
        · exact .inr (.inr ⟨by omega, by simpa using h.symm⟩)
        · cases h
  refine ⟨by decide +kernel, by decide +kernel, by decide +kernel, ?_, by decide +kernel, ?_, fun _ =>
    ⟨by decide +kernel, by decide +kernel, ?_, ?_, by decide +kernel⟩⟩
  · intro q f h
    have hM : maxSeq (window 6 1 [0, 6, 7]).cfg = 8 := by decide +kernel
    rw [hM]
    rcases hslots q f h with ⟨rfl, -⟩ | ⟨rfl, -⟩ | ⟨rfl, -⟩ <;> decide
  · intro n h
    cases h
  · unfold State.slotsMatchWindow
    decide +kernel
  · intro q f h
    rcases hslots q f h with ⟨rfl, rfl⟩ | ⟨rfl, rfl⟩ | ⟨rfl, rfl⟩ <;> decide

theorem test_witness_inv_reset : State.reset.inv := by
  refine ⟨by decide +kernel, by decide +kernel, by decide +kernel, ?_, by decide +kernel, ?_, fun _ =>
    ⟨by decide +kernel, by decide +kernel, ?_, ?_, by decide +kernel⟩⟩
  · intro q f h
    cases h
  · intro n h
    cases h
  · unfold State.slotsMatchWindow
    decide +kernel
  · intro q f h
    cases h

/-- SenderPhaseTransitions and IdealRetransmitIsTheWholeWindow, clause by clause on the two states above. -/
theorem test_witness_phase :
    let s := window 6 1 [0, 6, 7]
    s.running ∧ s.cfg.modeCode = 0 ∧ ([0x41] : Bytes).length ≤ s.cfg.maxPayload.toNat ∧
    outstanding s < s.cfg.windowSize.toNat ∧ (after (.submit [0x41]) s).isSome = true ∧
    (1 : Byte).toNat < maxSeq s.cfg ∧ seqDist (maxSeq s.cfg) 1 s.base = outstanding s ∧
    outstanding s ≤ maxSeq s.cfg / 2 ∧ 0 < outstanding s ∧ (after (.onAck 1) s).isSome = true ∧
    (after .isTimeout s).isSome = true ∧ (after .retransmit s).isSome = true ∧ phase State.reset = .idle := by
  decide +kernel

/-- EveryStepKeepsTheInvariant: a step from the window above. -/
theorem test_witness_step :
    (stepped (window 6 1 [0, 6, 7])).isSome = true ∧
    (stepped { window 6 1 [0, 6, 7] with commands := [[0x24]] }).isSome = true := by decide +kernel

/-- OnFrameAcceptsInOrder: the wrap of `expected`, and the last free place of the log. -/
theorem test_witness_onFrame_accepts :
    let s := { under { Cfg.c0 with logCapacity := some 1 } with expected := 7 }
    s.running ∧ decodeFrame (encodeFrame (dataFrame 7 [0x41])) = .valid (dataFrame 7 [0x41]) ∧
    (dataFrame 7 [0x41]).seqNum = s.expected ∧ s.cfg.logCapacity ≠ some s.log.length := by decide +kernel

/-- OnFrameDiscardsAndReAcks: corrupt in both classes, out of order, an ACK. -/
theorem test_witness_onFrame_discards :
    decodeFrame [0x6A, 0xF4, 0x41, 0x3C, 0x03, 0x00] = .corrupt .structural 3 ∧
    decodeFrame frameBad = .corrupt .integrity 0 ∧
    decodeFrame frameB = .valid (dataFrame 1 [0x42]) ∧ (dataFrame 1 [0x42]).seqNum ≠ State.reset.expected ∧
    decodeWire ack0 = some (.frameAck 0 0x52 0x53 []) := by decide +kernel

/-- OnFrameIntoAFullLogHalts: V-R9, LOG_CAPACITY 0. -/
theorem test_witness_onFrame_full :
    let s := under { Cfg.c0 with logCapacity := some 0 }
    s.running ∧ decodeFrame frameA = .valid (dataFrame 0 [0x41]) ∧ (dataFrame 0 [0x41]).seqNum = s.expected ∧
    s.cfg.logCapacity = some s.log.length := by decide +kernel

/-- ReadAnswersTheRegister: values that fit, up to the last one. -/
theorem test_witness_read :
    State.reset.now < 2 ^ 64 ∧ (2 ^ 64 - 1 : Nat) < 2 ^ 64 ∧ State.reset.cfg.seqBits.toNat ≤ 8 ∧
    State.reset.cfg.logCapacity = none := by decide +kernel

/-- ReadBufAnswersTheSlot: the last slot taken, the first number past the slots, an empty slot. -/
theorem test_witness_readBuf :
    let s := window 6 0 [6, 7]
    s.running ∧ (7 : Byte).toNat < maxSeq s.cfg ∧ bufRead (7 : Byte).toNat s.buf = some (dataFrame 7 [0x58]) ∧
    maxSeq s.cfg ≤ (8 : Byte).toNat ∧ bufRead (5 : Byte).toNat s.buf = none := by decide +kernel

/-- ReadLogAnswersTheEntry: the last entry, and the first index past it. -/
theorem test_witness_readLog :
    let s := { State.reset with log := [[0x41], [0x42]] }
    s.running ∧ s.log[(1 : BitVec 16).toNat]? = some [0x42] ∧ s.log.length ≤ (2 : BitVec 16).toNat := by
  decide +kernel

/-- ResetGivesTheResetValues: a legal and an illegal record on the port. -/
theorem test_witness_reset :
    cfgLegal State.reset.cfgPort = true ∧ cfgLegal { Cfg.c0 with windowSize := 8 } = false := by decide +kernel

/-- IdealLinkDeliversInOrder. -/
theorem test_witness_ideal_link :
    let s := under { Cfg.c0 with logCapacity := some 2 }
    s.running ∧ s.seqsInRange ∧ s.cfg.modeCode = 0 ∧ s.base = s.nextSeq ∧ s.expected = s.nextSeq ∧ s.buf = [] ∧
    s.timerRunning = false ∧ s.log = [] ∧ s.cfg.logCapacity = some 2 ∧ ([[0x41], [0x42]] : List Bytes).length ≤ 2 ∧
    ([0, 7] : List (BitVec 32)).length = ([[0x41], [0x42]] : List Bytes).length ∧
    ∀ p ∈ ([[0x41], [0x42]] : List Bytes), p.length ≤ s.cfg.maxPayload.toNat := by decide +kernel

end Sys2Proof.Tests
end

section
/-! PROOFS. The machine's invariant (R38): sequence arithmetic over a window that grows or shrinks, one lemma per
operation that says it keeps `State.inv`, and the step. -/

namespace Sys2Proof.Machine

/-! ### Sequence distances in a moving window (R11) -/

/-- Stepping the upper end brings it one farther. -/
theorem seqDist_seqNext_upper {M : Nat} (hM : M ≤ 256) {a b : Byte} (ha : a.toNat < M) (hb : b.toNat < M)
    (h : seqDist M a b + 1 < M) : seqDist M (seqNext M a) b = seqDist M a b + 1 := by
  have hn := seqNext_eq (by omega) hM ha
  have hlt := seqNext_lt (by omega) hM a
  rw [seqDist_eq ha hb] at h
  rw [seqDist_eq hlt hb, seqDist_eq ha hb]
  split_ifs at * <;> omega

/-- Distances from a new lower end `a`, in terms of those from the old one. -/
theorem seqDist_rebase {M : Nat} {q a b : Byte} (hq : q.toNat < M) (ha : a.toNat < M) (hb : b.toNat < M) :
    seqDist M q a = if seqDist M a b ≤ seqDist M q b then seqDist M q b - seqDist M a b
      else seqDist M q b + M - seqDist M a b := by
  rw [seqDist_eq hq ha, seqDist_eq ha hb, seqDist_eq hq hb]
  split_ifs <;> omega

/-- From one lower end, different numbers are at different distances. -/
theorem seqDist_inj {M : Nat} {q a b : Byte} (hq : q.toNat < M) (ha : a.toNat < M) (hb : b.toNat < M) :
    seqDist M q b = seqDist M a b ↔ q = a := by
  constructor
  · intro h
    rw [← seqDist_eq_zero hq ha, seqDist_rebase hq ha hb]
    simp [h]
  · rintro rfl
    rfl

/-! ### The parts of the invariant -/

/-- The part of `State.inv` that holds whether or not a fault bit is set: the register ranges. -/
def State.rangeInv (s : State) : Prop :=
  s.fault &&& 0xE0 = 0 ∧ s.seqsInRange ∧ Buf.wf s.buf = true ∧ (∀ q f, bufRead q s.buf = some f → q < maxSeq s.cfg) ∧
    s.timerStart ≤ s.now ∧ s.logFits

theorem inv_iff {s : State} : s.inv ↔ s.rangeInv ∧ (s.fault = 0 → cfgLegal s.cfg = true ∧ s.windowInv) := by
  simp only [State.inv, State.rangeInv, and_assoc]

/-- On a running block the invariant is the ranges and (I1) to (I4). -/
theorem inv_iff_of_running {s : State} (hr : s.running) : s.inv ↔ s.rangeInv ∧ s.windowInv := by
  simp [inv_iff, hr.1, hr.2]

/-- `window_empty` says that nothing is outstanding (R36). -/
theorem outstanding_eq_zero {s : State} (h : s.seqsInRange) : outstanding s = 0 ↔ windowEmpty s = true := by
  obtain ⟨hb, hn, -⟩ := h
  unfold outstanding windowEmpty
  rw [seqDist_eq_zero hn hb, beq_iff_eq, eq_comm]

/-- A fault needs the ranges only: a halted block owes no window invariant. -/
theorem raiseFault_inv {bit : BitVec 8} {s : State} (hbit : bit ≠ 0) (hres : bit &&& 0xE0 = 0) (h : s.rangeInv) :
    (raiseFault bit s).inv := by
  obtain ⟨hf, hrest⟩ := h
  refine inv_iff.mpr ⟨⟨?_, hrest⟩, fun h0 => ?_⟩
  · rw [raiseFault_fault, BitVec.and_or_distrib_right, hf, hres]
    rfl
  · exact absurd (BitVec.or_eq_zero_iff.mp h0).2 hbit

/-! ### RESET (R280) -/

theorem resetRegisters_rangeInv (s : State) : (resetRegisters s).rangeInv := by
  refine ⟨by simp, ⟨maxSeq_pos _, maxSeq_pos _, maxSeq_pos _⟩, rfl, fun q f h => ?_, le_rfl, fun n _ => Nat.zero_le n⟩
  cases h

theorem resetRegisters_inv {s : State} (h : cfgLegal s.cfgPort = true) : (resetRegisters s).inv := by
  have h0 : outstanding (resetRegisters s) = 0 := seqDist_self _ _
  refine inv_iff.mpr ⟨resetRegisters_rangeInv s, fun _ => ⟨h, ?_, fun q _ => ?_, fun q f hf => ?_, fun ht => ?_⟩⟩
  · omega
  · simp [h0]
  · cases hf
  · cases ht

/-! ### SUBMIT (R170) -/

/-- SUBMIT rejects with no change, or admits a payload that fits into a window that is not full. -/
theorem submit_admits (p : Bytes) (s : State) :
    (∃ st, submit p s = respond st [] s) ∨
      (outstanding s < s.cfg.windowSize.toNat ∧ submit p s = submitAccepted p s) := by
  unfold submit
  split_ifs with hp hw
  · exact .inl ⟨_, rfl⟩
  · exact .inl ⟨_, rfl⟩
  · exact .inr ⟨by simpa [inWindow, outstanding] using hw, rfl⟩

@[simp] theorem submitAccepted_cfg (p : Bytes) (s : State) : (submitAccepted p s).cfg = s.cfg := by
  rw [submitAccepted_eq p s _ rfl]

/-- Admitting into a window that is not full makes it one longer. -/
theorem outstanding_submitAccepted {s : State} (hr : s.running) (hs : s.seqsInRange)
    (hw : outstanding s < s.cfg.windowSize.toNat) (p : Bytes) :
    outstanding (submitAccepted p s) = outstanding s + 1 := by
  obtain ⟨-, hM, -, hwM, -⟩ := cfgLegal_bounds hr.2
  obtain ⟨hb, hn, -⟩ := hs
  have hroom : outstanding s + 1 < maxSeq s.cfg := by omega
  rw [submitAccepted_eq p s _ rfl]
  exact seqDist_seqNext_upper hM hn hb hroom

theorem submitAccepted_windowInv {s : State} (hr : s.running) (hs : s.seqsInRange) (hi : s.windowInv)
    (hw : outstanding s < s.cfg.windowSize.toNat) (p : Bytes) : (submitAccepted p s).windowInv := by
  obtain ⟨-, hslots, hnum, -⟩ := hi
  have hout := outstanding_submitAccepted hr hs hw p
  obtain ⟨hb, hn, -⟩ := hs
  refine ⟨?_, fun q hq => ?_, fun q f hf => ?_, fun _ => by omega⟩
  · rw [hout, submitAccepted_cfg]
    exact hw
  · rw [hout]
    rw [submitAccepted_eq p s _ rfl] at hq ⊢
    dsimp only at hq ⊢
    by_cases hqn : q = s.nextSeq
    · subst hqn
      simp [bufRead_bufWrite_same, outstanding]
    · have hne : seqDist (maxSeq s.cfg) q s.base ≠ outstanding s := fun e => hqn ((seqDist_inj hq hn hb).mp e)
      rw [bufRead_bufWrite_other (fun e => hqn (BitVec.eq_of_toNat_eq e)), hslots q hq]
      omega
  · rw [submitAccepted_eq p s _ rfl] at hf
    dsimp only at hf
    by_cases hqn : q = s.nextSeq.toNat
    · subst hqn
      rw [bufRead_bufWrite_same] at hf
      obtain rfl := Option.some.inj hf
      exact ⟨rfl, rfl⟩
    · rw [bufRead_bufWrite_other hqn] at hf
      exact hnum q f hf

theorem submitAccepted_rangeInv {s : State} (hr : s.running) (h : s.rangeInv) (p : Bytes) :
    (submitAccepted p s).rangeInv := by
  obtain ⟨hf, ⟨hb, hn, he⟩, hwf, hslot, hts, hlog⟩ := h
  have hM := (cfgLegal_bounds hr.2).2.1
  rw [submitAccepted_eq p s _ rfl]
  refine ⟨hf, ⟨hb, seqNext_lt (maxSeq_pos _) hM _, he⟩, bufWrite_wf _ _ hwf, fun q f hq => ?_, ?_, hlog⟩
  · by_cases hqn : q = s.nextSeq.toNat
    · subst hqn
      exact hn
    · exact hslot q f (by rwa [bufRead_bufWrite_other hqn] at hq)
  · dsimp only
    split
    · exact le_rfl
    · exact hts

theorem submit_inv {s : State} (hr : s.running) (h : s.inv) (p : Bytes) : (submit p s).inv := by
  obtain ⟨hrange, hwin⟩ := (inv_iff_of_running hr).mp h
  rcases submit_admits p s with ⟨st, e⟩ | ⟨hw, e⟩
  · rw [e]
    exact h
  · rw [e]
    exact inv_iff.mpr ⟨submitAccepted_rangeInv hr hrange p,
      fun _ => ⟨by rw [submitAccepted_cfg, hr.2], submitAccepted_windowInv hr hrange.2.1 hwin hw p⟩⟩

/-! ### ON_ACK and ACK_IN (R173-R178) -/

/-- ON_ACK rejects with no change, advances inside the window, or advances beyond `next_seq` and faults. -/
theorem ackReceived_advances (a : Byte) (s : State) :
    (∃ st, ackReceived a s = respond st [] s) ∨
      (a.toNat < maxSeq s.cfg ∧
        ((seqDist (maxSeq s.cfg) a s.base ≤ outstanding s ∧ ∃ outs, ackReceived a s = respond .ok outs (advance a s)) ∨
          ackReceived a s = raiseFault fAckBeyondNext (advance a s))) := by
  simp only [ackReceived]
  split_ifs with hrange
  · exact .inl ⟨_, rfl⟩
  · exact .inl ⟨_, rfl⟩
  · exact .inl ⟨_, rfl⟩
  · exact .inr ⟨by omega, .inr rfl⟩
  · exact .inr ⟨by omega, .inl ⟨by omega, _, rfl⟩⟩

/-- The buffer `Advance(a)` leaves (R175). -/
def ackedBuf (a : Byte) (s : State) : Buf := (advanceLoop (maxSeq s.cfg) a (maxSeq s.cfg) s.base s.buf).2

/-- `Advance(a)` on a running block, register by register (R175). -/
theorem advance_running {a : Byte} {s : State} (hr : s.running) (ha : a.toNat < maxSeq s.cfg) :
    advance a s = { s with
      base := a, buf := ackedBuf a s, timerRunning := !(a == s.nextSeq)
      timerStart := if a = s.nextSeq then s.timerStart else s.now } :=
  advance_eq a s a _ (Prod.ext (advanceLoop_fst (cfgLegal_bounds hr.2).2.1 ha s.base s.buf) rfl)

@[simp] theorem advance_cfg (a : Byte) (s : State) : (advance a s).cfg = s.cfg := by
  rw [advance_eq a s _ _ rfl]

/-- `Advance(a)` empties the slots before `a`, keeps the others, and keeps the canonical form. -/
theorem ackedBuf_spec {a : Byte} {s : State} (hr : s.running) (hb : s.base.toNat < maxSeq s.cfg)
    (hwf : Buf.wf s.buf = true) (ha : a.toNat < maxSeq s.cfg) :
    Buf.wf (ackedBuf a s) = true ∧
      (∀ q : Byte, q.toNat < maxSeq s.cfg → bufRead q.toNat (ackedBuf a s) =
        if seqDist (maxSeq s.cfg) q s.base < seqDist (maxSeq s.cfg) a s.base then none else bufRead q.toNat s.buf) ∧
      ∀ q, maxSeq s.cfg ≤ q → bufRead q (ackedBuf a s) = bufRead q s.buf :=
  (advanceLoop_spec (cfgLegal_bounds hr.2).2.1 ha (maxSeq s.cfg) s.base s.buf hb
    (seqDist_lt (maxSeq_pos _) a s.base).le hwf).2

/-- `Advance(a)` adds no frame to the buffer. -/
theorem bufRead_of_ackedBuf {a : Byte} {s : State} (hr : s.running) (hb : s.base.toNat < maxSeq s.cfg)
    (hwf : Buf.wf s.buf = true) (ha : a.toNat < maxSeq s.cfg) {q : Nat} {f : Frame}
    (h : bufRead q (ackedBuf a s) = some f) : bufRead q s.buf = some f := by
  obtain ⟨-, hin, hout⟩ := ackedBuf_spec hr hb hwf ha
  by_cases hq : q < maxSeq s.cfg
  · have hM := (cfgLegal_bounds hr.2).2.1
    have hqq : (BitVec.ofNat 8 q).toNat = q := by
      rw [BitVec.toNat_ofNat]
      omega
    have hread := hin (BitVec.ofNat 8 q) (by omega)
    rw [hqq, h] at hread
    split at hread
    · cases hread
    · exact hread.symm
  · rwa [hout q (by omega)] at h

theorem advance_rangeInv {a : Byte} {s : State} (hr : s.running) (h : s.rangeInv) (ha : a.toNat < maxSeq s.cfg) :
    (advance a s).rangeInv := by
  obtain ⟨hf, ⟨hb, hn, he⟩, hwf, hslot, hts, hlog⟩ := h
  rw [advance_running hr ha]
  refine ⟨hf, ⟨ha, hn, he⟩, (ackedBuf_spec hr hb hwf ha).1,
    fun q f hq => hslot q f (bufRead_of_ackedBuf hr hb hwf ha hq), ?_, hlog⟩
  dsimp only
  split
  · exact hts
  · exact le_rfl

/-- Advancing inside the window makes it shorter by the frames acknowledged. -/
theorem outstanding_advance {a : Byte} {s : State} (hr : s.running) (hs : s.seqsInRange) (ha : a.toNat < maxSeq s.cfg)
    (hle : seqDist (maxSeq s.cfg) a s.base ≤ outstanding s) :
    outstanding (advance a s) = outstanding s - seqDist (maxSeq s.cfg) a s.base := by
  obtain ⟨hb, hn, -⟩ := hs
  rw [advance_running hr ha]
  exact (seqDist_rebase hn ha hb).trans (if_pos hle)

theorem advance_windowInv {a : Byte} {s : State} (hr : s.running) (h : s.rangeInv) (hi : s.windowInv)
    (ha : a.toNat < maxSeq s.cfg) (hle : seqDist (maxSeq s.cfg) a s.base ≤ outstanding s) :
    (advance a s).windowInv := by
  obtain ⟨-, hs', -⟩ := advance_rangeInv hr h ha
  obtain ⟨-, hs, hwf, -⟩ := h
  obtain ⟨hsize, hslots, hnum, -⟩ := hi
  have hout := outstanding_advance hr hs ha hle
  have hempty := outstanding_eq_zero (s := advance a s) hs'
  have hwM := (cfgLegal_bounds hr.2).2.2.2.1
  obtain ⟨hb, hn, -⟩ := hs
  refine ⟨?_, fun q hq => ?_, fun q f hf => ?_, fun ht => ?_⟩
  · rw [hout, advance_cfg]
    omega
  · rw [hout]
    rw [advance_running hr ha] at hq ⊢
    dsimp only at hq ⊢
    rw [(ackedBuf_spec hr hb hwf ha).2.1 q hq, seqDist_rebase hq ha hb]
    by_cases hlt : seqDist (maxSeq s.cfg) q s.base < seqDist (maxSeq s.cfg) a s.base
    · rw [if_pos hlt, if_neg (by omega)]
      exact iff_of_false (by simp) (by omega)
    · rw [if_neg hlt, if_pos (by omega), hslots q hq]
      omega
  · rw [advance_running hr ha] at hf
    exact hnum q f (bufRead_of_ackedBuf hr hb hwf ha hf)
  · rw [Nat.pos_iff_ne_zero, Ne, hempty]
    rw [advance_running hr ha] at ht ⊢
    simpa [windowEmpty] using ht

theorem ackReceived_inv {s : State} (hr : s.running) (h : s.inv) (a : Byte) : (ackReceived a s).inv := by
  obtain ⟨hrange, hwin⟩ := (inv_iff_of_running hr).mp h
  rcases ackReceived_advances a s with ⟨st, e⟩ | ⟨ha, ⟨hle, outs, e⟩ | e⟩
  · rw [e]
    exact h
  · rw [e]
    exact inv_iff.mpr ⟨advance_rangeInv hr hrange ha,
      fun _ => ⟨by simpa using hr.2, advance_windowInv hr hrange hwin ha hle⟩⟩
  · rw [e]
    exact raiseFault_inv (by decide) (by decide) (advance_rangeInv hr hrange ha)

theorem ackArrived_inv {s : State} (hr : s.running) (h : s.inv) (w : Wire) : (ackArrived w s).inv := by
  rcases ackArrived_cases w s with ⟨st, -, e⟩ | ⟨b, f, -, -, -, e⟩
  · rw [e]
    exact h
  · rw [e]
    exact ackReceived_inv hr h _

/-! ### IS_TIMEOUT and RETRANSMIT (R185, R188) -/

theorem checkTimeout_inv {s : State} (h : s.inv) : (checkTimeout s).inv := by
  rcases checkTimeout_cases s with ⟨-, e⟩ | ⟨-, e⟩
  · rw [e]
    obtain ⟨hrange, hwin⟩ := inv_iff.mp h
    refine inv_iff.mpr ⟨hrange, fun h0 => ?_⟩
    obtain ⟨hl, h1, h2, h3, -⟩ := hwin h0
    exact ⟨hl, h1, h2, h3, fun ht => by cases ht⟩
  · rw [e]
    exact h

/-- What a channel can have done to `ch_state` and the entropy port: mode by mode, as R148 and R149 let it. -/
def ChannelMoves (s : State) (ch : ChState) (e : Entropy) : Prop :=
  (ch ≠ s.chState → s.cfg.modeCode = 1 ∨ s.cfg.modeCode = 3) ∧ (e ≠ s.entropy → s.cfg.modeCode ≠ 0)

/-- RETRANSMIT, register by register: what is sent is `resendLoop`'s, and the timer restarts unless the window is empty
(R188). -/
theorem resendWindow_eq (s : State) :
    ∃ n ch e outs, ChannelMoves s ch e ∧
      resendWindow s = respond .ok outs { s with
        retxCount := n, chState := ch, entropy := e
        timerRunning := !windowEmpty s || s.timerRunning
        timerStart := if windowEmpty s then s.timerStart else s.now } := by
  obtain ⟨n, ch, e, h, hch, he⟩ := resendLoop_frame (maxSeq s.cfg) s.base s
  refine ⟨n, ch, e, [.wires (resendLoop (maxSeq s.cfg) s.base s).1], ⟨hch, mt he⟩, ?_⟩
  unfold resendWindow
  dsimp only
  rw [h]
  cases windowEmpty s <;> rfl

theorem resendWindow_inv {s : State} (h : s.inv) : (resendWindow s).inv := by
  obtain ⟨n, ch, e, outs, -, heq⟩ := resendWindow_eq s
  rw [heq]
  obtain ⟨⟨hf, hs, hwf, hslot, hts, hlog⟩, hwin⟩ := inv_iff.mp h
  refine inv_iff.mpr ⟨⟨hf, hs, hwf, hslot, ?_, hlog⟩, fun h0 => ?_⟩
  · simp only [respond_timerStart, respond_now]
    split
    · exact hts
    · exact le_rfl
  · obtain ⟨hl, h1, h2, h3, h4⟩ := hwin h0
    refine ⟨hl, h1, h2, h3, fun ht => ?_⟩
    simp only [respond_timerRunning, Bool.or_eq_true, Bool.not_eq_true'] at ht
    rcases ht with hne | ht
    · exact Nat.pos_of_ne_zero fun e => by simp [(outstanding_eq_zero hs).mp e] at hne
    · exact h4 ht

/-! ### ON_FRAME (R210) -/

/-- Accepting into a log that is not full keeps it within LOG_CAPACITY and `expected` below MAX_SEQ. -/
theorem acceptPayload_inv {s : State} (hr : s.running) (h : s.inv) (hfull : logFull s = false) (p : Bytes) :
    (acceptPayload p s).inv := by
  obtain ⟨⟨hf, ⟨hb, hn, -⟩, hwf, hslot, hts, hlog⟩, hwin⟩ := inv_iff.mp h
  refine inv_iff.mpr ⟨⟨hf, ⟨hb, hn, ?_⟩, hwf, hslot, hts, fun n hcap => ?_⟩, hwin⟩
  · exact seqNext_lt (maxSeq_pos _) (cfgLegal_bounds hr.2).2.1 _
  · have hcap' : s.cfg.logCapacity = some n := hcap
    have hle := hlog n hcap'
    have hne : n ≠ s.log.length := by simpa [logFull, hcap'] using hfull
    rw [acceptPayload_log, List.length_append, List.length_singleton]
    omega

theorem frameArrived_inv {s : State} (hr : s.running) (h : s.inv) (w : Wire) : (frameArrived w s).inv := by
  rcases frameArrived_cases w s with e | ⟨st, -, -, e⟩ | ⟨b, f, -, -, -, -, ⟨hfull, e⟩ | ⟨-, e⟩⟩
  · rw [e]
    exact h
  · rw [e]
    exact h
  · rw [e]
    exact acceptPayload_inv hr h hfull _
  · rw [e]
    exact raiseFault_inv (by decide) (by decide) (inv_iff.mp h).1

/-! ### The instructions that write no register of the invariant -/

theorem isCorruptOf_inv {s : State} (h : s.inv) : (isCorruptOf s).inv := by
  unfold isCorruptOf
  split
  · exact raiseFault_inv (by decide) (by decide) (inv_iff.mp h).1
  · exact h
  · exact h

theorem slotAnswer_inv {s : State} (h : s.inv) (q : Byte) : (slotAnswer q s).inv := by
  unfold slotAnswer
  split
  · exact h
  · split <;> exact h

theorem entryAnswer_inv {s : State} (h : s.inv) (n : BitVec 16) : (entryAnswer n s).inv := by
  unfold entryAnswer
  split <;> exact h

/-! ### Every instruction and every step -/

theorem reset_effect_inv (s : State) : (effect .reset s).inv := by
  unfold effect
  dsimp only
  split
  · next hl => exact resetRegisters_inv hl
  · exact raiseFault_inv (by decide) (by decide) (resetRegisters_rangeInv s)

/-- What an instruction does past the guard keeps the invariant. -/
theorem effect_inv {s : State} (hr : s.running) (h : s.inv) (i : Instr) : (effect i s).inv := by
  cases i
  case isCorrupt => exact isCorruptOf_inv h
  case submit p => exact submit_inv hr h p
  case onAck a => exact ackReceived_inv hr h a
  case ackIn w => exact ackArrived_inv hr h w
  case isTimeout => exact checkTimeout_inv h
  case retransmit => exact resendWindow_inv h
  case onFrame w => exact frameArrived_inv hr h w
  case readBuf q => exact slotAnswer_inv h q
  case readLog n => exact entryAnswer_inv h n
  case reset => exact reset_effect_inv s
  case tick d =>
    obtain ⟨⟨hf, hs, hwf, hslot, hts, hlog⟩, hwin⟩ := inv_iff.mp h
    exact inv_iff.mpr ⟨⟨hf, hs, hwf, hslot, Nat.le_add_right_of_le hts, hlog⟩, hwin⟩
  -- The others write the response port, `DR`, `ch_state` or the entropy port: nothing the invariant reads.
  all_goals exact h

theorem exec_inv {i : Instr} {s t : State} (h : s.inv) (he : exec i s = .next t) : t.inv := by
  rcases exec_next he with ⟨rfl, hr | rfl | ⟨sel, rfl⟩⟩ | ⟨rfl, -⟩
  · exact effect_inv hr h i
  · exact reset_effect_inv s
  · exact h
  · exact h

/-- A byte string that is no legal command is answered HALTED or faults with F_ILLEGAL_COMMAND (R85, R257). -/
theorem rejectCommand_cases {cmd : Bytes} {s t : State} (h : rejectCommand cmd s = .next t) :
    t = respond .halted [] s ∨ t = raiseFault fIllegalCommand s := by
  unfold rejectCommand at h
  split at h
  · exact .inl (by simpa using h.symm)
  · exact .inr (by simpa using h.symm)

/-- What a step can do: nothing, where no command is pending; else it executes the oldest command or rejects it (R67, R70,
R262). -/
theorem step_cases {s t : State} (h : step s = .next t) :
    t = s ∨ (∃ i, exec i (dropCommand s) = .next t) ∨
      ∃ cmd rest e, s.commands = cmd :: rest ∧ decode cmd = .error e ∧
        (t = respond .halted [] (dropCommand s) ∨ t = raiseFault fIllegalCommand (dropCommand s)) := by
  unfold step at h
  split at h
  · exact .inl (by simpa using h.symm)
  · next cmd rest hcmd =>
    split at h
    · exact .inr (.inl ⟨_, h⟩)
    · next e he => exact .inr (.inr ⟨cmd, rest, e, hcmd, he, rejectCommand_cases h⟩)

/-- Settles O59: one lemma per operation says that it keeps the ranges and, where it leaves no fault, (I1) to (I4). -/
theorem everyStepKeepsTheInvariant : Obligations.EveryStepKeepsTheInvariant := by
  intro s t h hstep
  rcases step_cases hstep with rfl | ⟨i, he⟩ | ⟨cmd, rest, e, -, -, rfl | rfl⟩
  · exact h
  · exact exec_inv (s := dropCommand s) h he
  · exact h
  · exact raiseFault_inv (by decide) (by decide) (inv_iff.mp h).1

/-- Settles O58: power-on is what the reset sequence leaves, under the legal configuration C0. -/
theorem resetStateMeetsTheInvariant : Obligations.ResetStateMeetsTheInvariant :=
  have hfix : resetRegisters State.reset = State.reset := rfl
  ⟨hfix ▸ resetRegisters_inv (s := State.reset) (by decide +kernel), hfix⟩

end Sys2Proof.Machine
end

section
/-! PROOFS. What every instruction writes: one inversion of `exec` into the few ways a state can change, and the rules on
the log, the timer, the registers' writers and the fault bits, each read off it. -/

namespace Sys2Proof.Machine

/-! ### The ways a state can change -/

theorem propagate_moves (w : Wire) (s : State) :
    ChannelMoves s (crossing w s).chState (crossing w s).entropy :=
  have hf := propagate_frame s.cfg w s.chState s.entropy
  ⟨hf.1, mt hf.2⟩

/-- The instruction hands this number to ON_ACK: ON_ACK itself, or ACK_IN of a valid ACK (R174, R178). -/
def AcksWith (i : Instr) (a : Byte) : Prop :=
  i = .onAck a ∨ ∃ b f, i = .ackIn (some b) ∧ decodeFrame b = .valid f ∧ f.kind = .ack ∧ f.seqNum = a

/-- The number is beyond `next_seq`, in the half of the numbers that ON_ACK takes (R177). -/
def AckBeyondNext (a : Byte) (s : State) : Prop :=
  a.toNat < maxSeq s.cfg ∧ outstanding s < seqDist (maxSeq s.cfg) a s.base ∧
    seqDist (maxSeq s.cfg) a s.base ≤ maxSeq s.cfg / 2

/-- What an instruction that answers a next state can have written, register by register (R67). -/
inductive Writes (i : Instr) (s : State) : State → Prop
  /-- Any instruction may only answer: a rejection, HALTED, or a result that no register holds. -/
  | answers (rs : List Response) : Writes i s { s with responses := rs }
  /-- DECODE (R118). -/
  | decodes (b : Bytes) (hi : i = .decode b) (r : Option DecodeResult) (rs : List Response) :
      Writes i s { s with dr := r, responses := rs }
  /-- IS_CORRUPT without a decode result (R119). -/
  | noDecodeResult (hi : i = .isCorrupt) (hd : s.dr = none) : Writes i s (raiseFault fNoDecodeResult s)
  /-- PROPAGATE, and ON_FRAME that discards and re-ACKs (R149, R210). -/
  | crosses (ch : ChState) (e : Entropy) (hi : (∃ w, i = .propagate w) ∨ ∃ w, i = .onFrame w)
      (hm : ChannelMoves s ch e) (rs : List Response) :
      Writes i s { s with chState := ch, entropy := e, responses := rs }
  /-- PROPAGATE_BSC (R150). -/
  | crossesBsc (w : Wire) (e : Entropy) (hi : i = .propagateBsc w) (rs : List Response) :
      Writes i s { s with entropy := e, responses := rs }
  /-- An accepted SUBMIT (R170). -/
  | admits (p : Bytes) (ch : ChState) (e : Entropy) (hi : i = .submit p) (hm : ChannelMoves s ch e) (nx : Byte)
      (buf : Buf) (n : Nat) (rs : List Response) :
      Writes i s { s with
        buf := buf, nextSeq := nx, txCount := n
        timerRunning := windowEmpty s || s.timerRunning
        timerStart := if windowEmpty s then s.now else s.timerStart
        chState := ch, entropy := e, responses := rs }
  /-- An ACK that moves `base` (R175, R177). -/
  | acks (a : Byte) (bits : BitVec 8) (hi : AcksWith i a) (hne : a ≠ s.base)
      (hbits : bits = s.fault ∨ (bits = s.fault ||| fAckBeyondNext ∧ AckBeyondNext a s)) (buf : Buf)
      (rs : List Response) :
      Writes i s { s with
        base := a, buf := buf, timerRunning := !(a == s.nextSeq)
        timerStart := if a = s.nextSeq then s.timerStart else s.now
        responses := rs, fault := bits }
  /-- IS_TIMEOUT that fires (R185). -/
  | timesOut (hi : i = .isTimeout) (hx : timerExpired s = true) (rs : List Response) :
      Writes i s { s with timerRunning := false, responses := rs }
  /-- RETRANSMIT (R188). -/
  | resends (ch : ChState) (e : Entropy) (hi : i = .retransmit) (hm : ChannelMoves s ch e) (n : Nat)
      (rs : List Response) :
      Writes i s { s with
        retxCount := n, chState := ch, entropy := e
        timerRunning := !windowEmpty s || s.timerRunning
        timerStart := if windowEmpty s then s.timerStart else s.now
        responses := rs }
  /-- ON_FRAME that accepts (R210). -/
  | accepts (w : Wire) (p : Bytes) (ch : ChState) (e : Entropy) (hi : i = .onFrame w) (hm : ChannelMoves s ch e)
      (ex : Byte) (rs : List Response) :
      Writes i s { s with log := s.log ++ [p], expected := ex, chState := ch, entropy := e, responses := rs }
  /-- ON_FRAME that would accept into a full log (R210). -/
  | logIsFull (b : Bytes) (f : Frame) (hi : i = .onFrame (some b)) (hf : decodeFrame b = .valid f)
      (hk : f.kind = .data) (hq : f.seqNum = s.expected) (hl : s.cfg.logCapacity = some s.log.length) :
      Writes i s (raiseFault fLogFull s)
  /-- TICK (R231). -/
  | ticks (d : BitVec 32) (hi : i = .tick d) (n : Nat) (rs : List Response) :
      Writes i s { s with now := n, responses := rs }
  /-- RESET, with what it writes to `fault` (R280). -/
  | resets (hi : i = .reset) (bits : BitVec 8)
      (hbits : bits = 0 ∨ (bits = 0 ||| fConfigInvalid ∧ cfgLegal s.cfgPort = false)) (rs : List Response) :
      Writes i s { resetRegisters s with fault := bits, responses := rs }

/-! ### Each operation changes the state in one of these ways -/

theorem isCorruptOf_writes (s : State) : Writes .isCorrupt s (isCorruptOf s) := by
  unfold isCorruptOf
  split
  · next hd => exact .noDecodeResult rfl hd
  · exact .answers _
  · exact .answers _

theorem propagateBsc_writes (w : Wire) (s : State) : Writes (.propagateBsc w) s (effect (.propagateBsc w) s) := by
  have keepsChState : afterCrossing (bsc s.cfg.bscP w s.chState s.entropy) s =
      { s with entropy := (bsc s.cfg.bscP w s.chState s.entropy).entropy } := by
    rw [afterCrossing, bsc_chState]
  simp only [effect, keepsChState]
  exact .crossesBsc w _ rfl _

theorem submit_writes (p : Bytes) (s : State) : Writes (.submit p) s (submit p s) := by
  rcases submit_cases p s with ⟨st, -, h⟩ | h
  · rw [h]
    exact .answers _
  · rw [h, submitAccepted_eq p s _ rfl]
    exact .admits p _ _ rfl (propagate_moves _ s) _ _ _ _

theorem ackReceived_writes {i : Instr} {a : Byte} {s : State} (hr : s.running) (hi : AcksWith i a) :
    Writes i s (ackReceived a s) := by
  rcases ackReceived_frame a hr with ⟨st, h⟩ | ⟨ha, hne, buf, st, outs, bits, h, hbits⟩
  · rw [h]
    exact .answers _
  · rw [h]
    exact .acks a bits hi hne (hbits.imp id fun ⟨hb, hout, hhalf⟩ => ⟨hb, ha, hout, hhalf⟩) buf _

theorem ackArrived_writes {s : State} (hr : s.running) (w : Wire) : Writes (.ackIn w) s (ackArrived w s) := by
  rcases ackArrived_cases w s with ⟨st, -, h⟩ | ⟨b, f, rfl, hf, hk, h⟩
  · rw [h]
    exact .answers _
  · rw [h]
    exact ackReceived_writes hr (.inr ⟨b, f, rfl, hf, hk, rfl⟩)

theorem checkTimeout_writes (s : State) : Writes .isTimeout s (checkTimeout s) := by
  rcases checkTimeout_cases s with ⟨hx, h⟩ | ⟨-, h⟩
  · rw [h]
    exact .timesOut rfl hx _
  · rw [h]
    exact .answers _

theorem resendWindow_writes (s : State) : Writes .retransmit s (resendWindow s) := by
  obtain ⟨n, ch, e, outs, hm, h⟩ := resendWindow_eq s
  rw [h]
  exact .resends ch e rfl hm n _

theorem frameArrived_writes (w : Wire) (s : State) : Writes (.onFrame w) s (frameArrived w s) := by
  rcases frameArrived_cases w s with h | ⟨st, -, -, h⟩ | ⟨b, f, rfl, hf, hk, hq, ⟨-, h⟩ | ⟨hl, h⟩⟩
  · rw [h]
    exact .answers _
  · rw [h]
    exact .crosses _ _ (.inr ⟨w, rfl⟩) (propagate_moves _ s) _
  · rw [h]
    exact .accepts _ f.payload _ _ rfl (propagate_moves _ s) _ _
  · rw [h]
    exact .logIsFull b f rfl hf hk hq (by simpa [logFull] using hl)

theorem reset_writes (s : State) : Writes .reset s (effect .reset s) := by
  unfold effect
  dsimp only
  split
  · exact .resets rfl 0 (.inl rfl) _
  · next hl => exact .resets rfl _ (.inr ⟨rfl, by simpa using hl⟩) _

theorem readBuf_writes (q : Byte) (s : State) : Writes (.readBuf q) s (slotAnswer q s) := by
  unfold slotAnswer
  split
  · exact .answers _
  · split <;> exact .answers _

theorem readLog_writes (n : BitVec 16) (s : State) : Writes (.readLog n) s (entryAnswer n s) := by
  unfold entryAnswer
  split <;> exact .answers _

theorem effect_writes {s : State} (hr : s.running) (i : Instr) : Writes i s (effect i s) := by
  cases i
  case decode b => exact .decodes b rfl _ _
  case isCorrupt => exact isCorruptOf_writes s
  case propagate w => exact .crosses _ _ (.inl ⟨w, rfl⟩) (propagate_moves w s) _
  case propagateBsc w => exact propagateBsc_writes w s
  case submit p => exact submit_writes p s
  case onAck a => exact ackReceived_writes hr (.inl rfl)
  case ackIn w => exact ackArrived_writes hr w
  case isTimeout => exact checkTimeout_writes s
  case retransmit => exact resendWindow_writes s
  case onFrame w => exact frameArrived_writes w s
  case tick d => exact .ticks d rfl _ _
  case readBuf q => exact readBuf_writes q s
  case readLog n => exact readLog_writes n s
  case reset => exact reset_writes s
  all_goals exact .answers _

/-- `exec` inverted, register by register. -/
theorem exec_writes {i : Instr} {s t : State} (h : exec i s = .next t) : Writes i s t := by
  rcases exec_next h with ⟨rfl, hr | rfl | ⟨sel, rfl⟩⟩ | ⟨rfl, -⟩
  · exact effect_writes hr i
  · exact reset_writes s
  · exact .answers _
  · exact .answers _

/-! ### The log (R30, R64) -/

/-- Settles O49: of the ways a state can change, one appends to the log and one empties it. -/
theorem logIsAppendOnly : Obligations.LogIsAppendOnly := by
  intro i s t h
  cases exec_writes h
  case accepts w p ch e hi hm ex rs => exact .inr (.inl ⟨w, p, hi, rfl⟩)
  case resets hi bits hbits rs => exact .inr (.inr ⟨hi, rfl⟩)
  all_goals exact .inl rfl

/-! ### The timer (R27, R186) -/

theorem AcksWith.isAck {i : Instr} {a : Byte} (h : AcksWith i a) : (∃ a, i = .onAck a) ∨ ∃ w, i = .ackIn w := by
  rcases h with h | ⟨b, f, h, -⟩
  · exact .inl ⟨a, h⟩
  · exact .inr ⟨some b, h⟩

theorem timerExpired_iff {s : State} :
    timerExpired s = true ↔ s.timerRunning = true ∧ s.cfg.timeout < s.now - s.timerStart := by
  simp [timerExpired]

/-- Settles O43: four ways a state can change write the timer; each start is under its condition on the window. -/
theorem timerDiscipline : Obligations.TimerDiscipline := by
  intro i s t h
  cases exec_writes h
  case admits p ch e hi hm nx buf n rs =>
    by_cases he : s.base = s.nextSeq
    · simp [windowEmpty, he, hi]
    · simp +contextual [windowEmpty, he]
  case acks a bits hi hne hbits buf rs =>
    by_cases ha : a = s.nextSeq
    · subst ha
      simp [hi.isAck, hne]
    · simp [hi.isAck, ha, hne]
  case timesOut hi hx rs => simp [hi, (timerExpired_iff.mp hx).2]
  case resends ch e hi hm n rs =>
    by_cases he : s.base = s.nextSeq
    · simp +contextual [windowEmpty, he]
    · simp [windowEmpty, he, hi]
  case resets hi bits hbits rs => simp [hi]
  all_goals
    exact ⟨fun h0 h1 => absurd (h0.symm.trans h1) Bool.false_ne_true,
      fun h1 h0 => absurd (h0.symm.trans h1) Bool.false_ne_true, fun hne => absurd rfl hne⟩

/-! ### The registers' writers (R23-R35) -/

/-- Settles O56: each way a state can change names the registers it writes and the instructions that take it. -/
theorem registerWriters : Obligations.RegisterWriters := by
  intro i s t h
  cases exec_writes h
  case answers rs => simp
  case decodes b hi r rs => simp [hi]
  case noDecodeResult hi hd => simp [hi]
  case crosses ch e hi hm rs =>
    rcases hi with ⟨w, rfl⟩ | ⟨w, rfl⟩ <;> simpa [ChannelMoves] using hm
  case crossesBsc w e hi rs => simp [hi]
  case admits p ch e hi hm nx buf n rs => simpa [hi, ChannelMoves] using hm
  case acks a bits hi hne hbits buf rs =>
    rcases hi with rfl | ⟨b, f, rfl, -⟩ <;> simp
  case timesOut hi hx rs => simp [hi]
  case resends ch e hi hm n rs => simpa [hi, ChannelMoves] using hm
  case accepts w p ch e hi hm ex rs => simpa [hi, ChannelMoves] using hm
  case logIsFull b f hi hf hk hq hl => simp [hi]
  case ticks d hi n rs => simp [hi]
  case resets hi bits hbits rs => simp [hi]

/-! ### The fault bits (R35, R256) -/

/-- What newly sets a fault bit in an instruction, by the bit's number (R256): bit 0 and the reserved bits nothing. -/
def FaultCause (i : Instr) (s : State) : Nat → Prop
  | 1 => i = .isCorrupt ∧ s.dr = none
  | 2 => ∃ a, AcksWith i a ∧ AckBeyondNext a s
  | 3 => ∃ b f, i = .onFrame (some b) ∧ decodeFrame b = .valid f ∧ f.kind = .data ∧ f.seqNum = s.expected ∧
      s.cfg.logCapacity = some s.log.length
  | 4 => i = .reset ∧ cfgLegal s.cfgPort = false
  | _ => False

/-- A newly set bit of `fault ||| 2^j` is bit `j`. -/
theorem newBit_or_twoPow {f : BitVec 8} {j k : Nat} (h0 : f.getLsbD k = false)
    (h1 : (f ||| BitVec.twoPow 8 j).getLsbD k = true) : k = j := by
  rw [BitVec.getLsbD_or, h0, Bool.false_or, BitVec.getLsbD_twoPow, Bool.and_eq_true] at h1
  exact (of_decide_eq_true h1.2).symm

theorem exec_newFaultBit {i : Instr} {s t : State} {k : Nat} (h : exec i s = .next t)
    (h0 : s.fault.getLsbD k = false) (h1 : t.fault.getLsbD k = true) : FaultCause i s k := by
  cases exec_writes h
  case noDecodeResult hi hd =>
    obtain rfl := newBit_or_twoPow (j := 1) h0 h1
    exact ⟨hi, hd⟩
  case acks a bits hi hne hbits buf rs =>
    rcases hbits with rfl | ⟨rfl, hbeyond⟩
    · exact absurd (h0.symm.trans h1) Bool.false_ne_true
    · obtain rfl := newBit_or_twoPow (j := 2) h0 h1
      exact ⟨a, hi, hbeyond⟩
  case logIsFull b f hi hf hk hq hl =>
    obtain rfl := newBit_or_twoPow (j := 3) h0 h1
    exact ⟨b, f, hi, hf, hk, hq, hl⟩
  case resets hi bits hbits rs =>
    rcases hbits with rfl | ⟨rfl, hl⟩
    · simp at h1
    · obtain rfl := newBit_or_twoPow (f := 0) (j := 4) (by simp) h1
      exact ⟨hi, hl⟩
  all_goals exact absurd (h0.symm.trans h1) Bool.false_ne_true

/-- A set bit stays set under any instruction but RESET. -/
theorem exec_keepsFaultBits {i : Instr} {s t : State} (h : exec i s = .next t) (hi : i ≠ .reset) :
    s.fault &&& t.fault = s.fault := by
  have or_keeps : ∀ f b : BitVec 8, f &&& (f ||| b) = f := fun f b => by
    ext k hk
    simp +contextual
  cases exec_writes h
  case noDecodeResult => exact or_keeps _ _
  case acks hbits _ _ =>
    rcases hbits with rfl | ⟨rfl, -⟩
    · exact BitVec.and_self
    · exact or_keeps _ _
  case logIsFull => exact or_keeps _ _
  case resets hr _ _ _ => exact absurd hr hi
  all_goals exact BitVec.and_self

/-- Settles O57: every newly set bit has its cause, and the step adds bit 0 for a byte string that does not decode. -/
theorem faultBitsAreSticky : Obligations.FaultBitsAreSticky := by
  refine ⟨fun i s t h => ⟨exec_keepsFaultBits h, fun h0 => ?_, exec_newFaultBit h, fun h0 h1 => ?_,
    exec_newFaultBit h, exec_newFaultBit h, fun k hk h0 => ?_⟩, fun s t h h0 h1 => ?_⟩
  · exact Bool.eq_false_iff.mpr fun h1 => exec_newFaultBit h h0 h1
  · obtain ⟨a, ha, hbeyond⟩ := exec_newFaultBit h h0 h1
    exact ⟨a, ha, hbeyond⟩
  · refine Bool.eq_false_iff.mpr fun h1 => ?_
    have hcause := exec_newFaultBit h h0 h1
    obtain ⟨n, rfl⟩ := Nat.exists_eq_add_of_le' hk
    exact hcause
  · rcases step_cases h with rfl | ⟨i, he⟩ | ⟨cmd, rest, e, hcmd, hdec, -⟩
    · exact absurd (h0.symm.trans h1) Bool.false_ne_true
    · exact (exec_newFaultBit (s := dropCommand s) he h0 h1).elim
    · exact ⟨cmd, rest, e, hcmd, hdec⟩

end Sys2Proof.Machine
end

section
/-! PROOFS. The sender's phases (R189) and the window that RETRANSMIT sends (R188), under the invariant. -/

namespace Sys2Proof.Machine

/-! ### What RETRANSMIT sends on an ideal channel (R143, R188) -/

theorem propagate_ideal {c : Cfg} (hc : c.modeCode = 0) (w : Wire) (ch : ChState) (e : Entropy) :
    propagate c w ch e = { wire := w, chState := ch, entropy := e } := by
  simp [propagate, channelMode, hc]

theorem crossAll_ideal {c : Cfg} (hc : c.modeCode = 0) (fs : List Frame) (ch : ChState) (e : Entropy) :
    (crossAll c fs ch e).1 = fs.map (fun f => some (encodeFrame f)) := by
  induction fs with
  | nil => rfl
  | cons f fs ih => simp [crossAll, propagate_ideal hc, ih]

/-- Stepping up from `b` fewer than MAX_SEQ times gives the number at that distance. -/
theorem seqDist_add {M : Nat} (hM : M ≤ 256) {b : Byte} (hb : b.toNat < M) {k : Nat} (hk : k < M) :
    (BitVec.ofNat 8 ((b.toNat + k) % M)).toNat = (b.toNat + k) % M ∧
      seqDist M (BitVec.ofNat 8 ((b.toNat + k) % M)) b = k := by
  have hlt : (b.toNat + k) % M < M := Nat.mod_lt _ (by omega)
  have hn : (BitVec.ofNat 8 ((b.toNat + k) % M)).toNat = (b.toNat + k) % M := by
    rw [BitVec.toNat_ofNat]
    omega
  refine ⟨hn, ?_⟩
  rw [seqDist_eq (by omega) hb, hn]
  by_cases hwrap : b.toNat + k < M
  · rw [Nat.mod_eq_of_lt hwrap]
    split <;> omega
  · rw [Nat.mod_eq_sub_mod (by omega), Nat.mod_eq_of_lt (by omega)]
    split <;> omega

/-- By (I2) every number of the window has its frame in the buffer. -/
theorem windowFrames_length {s : State} (hr : s.running) (hb : s.base.toNat < maxSeq s.cfg)
    (hslots : s.slotsMatchWindow) : (windowFrames s).length = outstanding s := by
  obtain ⟨-, hM, -⟩ := cfgLegal_bounds hr.2
  have htaken : ∀ k ∈ List.range (outstanding s),
      (bufRead ((s.base.toNat + k) % maxSeq s.cfg) s.buf).isSome = true := by
    intro k hk
    rw [List.mem_range] at hk
    have hkM : k < maxSeq s.cfg := hk.trans (seqDist_lt (maxSeq_pos _) _ _)
    obtain ⟨hn, hd⟩ := seqDist_add hM hb hkM
    have hlt : (s.base.toNat + k) % maxSeq s.cfg < maxSeq s.cfg := Nat.mod_lt _ (maxSeq_pos _)
    have hmatch := hslots (BitVec.ofNat 8 ((s.base.toNat + k) % maxSeq s.cfg)) (by omega)
    rw [hn, hd] at hmatch
    exact hmatch.mpr hk
  rw [windowFrames, List.length_filterMap_eq_countP, List.countP_eq_length.mpr htaken, List.length_range]

/-- Settles O42: the loop sends the frames of the window, none is missing by (I2), and an ideal channel changes none. -/
theorem idealRetransmitIsTheWholeWindow : Obligations.IdealRetransmitIsTheWholeWindow := by
  intro s hr h hc
  obtain ⟨⟨-, ⟨hb, hn, -⟩, -⟩, -, hslots, -⟩ := (inv_iff_of_running hr).mp h
  obtain ⟨-, hM, -⟩ := cfgLegal_bounds hr.2
  refine ⟨windowFrames_length hr hb hslots, _, exec_running hr .retransmit, ?_⟩
  have hloop := resendLoop_spec (maxSeq s.cfg) s.base s hM hn hb (seqDist_lt (maxSeq_pos _) _ _).le (windowFrames s) rfl
  simp only [effect, resendWindow, hloop, crossAll_ideal hc]
  split <;> rfl

/-! ### The phases (R37, R189) -/

/-- (I4) of R38: the timer runs over a window that is not empty only. -/
theorem windowEmpty_of_timerRunning {s : State} (hr : s.running) (h : s.inv) (ht : s.timerRunning = true) :
    windowEmpty s = false := by
  obtain ⟨⟨-, hs, -⟩, -, -, -, htimer⟩ := (inv_iff_of_running hr).mp h
  rw [Bool.eq_false_iff, Ne, ← outstanding_eq_zero hs]
  exact (htimer ht).ne'

/-- An accepted SUBMIT arms the sender, but for one whose timer has expired. -/
theorem phase_submit {s : State} {p : Bytes} (hr : s.running) (h : s.inv) (hp : p.length ≤ s.cfg.maxPayload.toNat)
    (hw : outstanding s < s.cfg.windowSize.toNat) :
    phase (submit p s) = if phase s = .expired then .expired else .armed := by
  obtain ⟨hrange, -⟩ := (inv_iff_of_running hr).mp h
  have hroom : inWindow s s.nextSeq = true := decide_eq_true hw
  have haccept : submit p s = submitAccepted p s := by simp [submit, Nat.not_lt.mpr hp, hroom]
  have hne : windowEmpty (submitAccepted p s) = false := by
    rw [Bool.eq_false_iff, Ne, ← outstanding_eq_zero (submitAccepted_rangeInv hr hrange p).2.1,
      outstanding_submitAccepted hr hrange.2.1 hw p]
    exact Nat.succ_ne_zero _
  have htimer : (submitAccepted p s).timerRunning = (windowEmpty s || s.timerRunning) := by
    rw [submitAccepted_eq p s _ rfl]
  unfold phase
  rw [haccept, hne, htimer]
  cases s.timerRunning <;> cases windowEmpty s <;> rfl

/-- An ACK inside the window leaves the sender idle where it confirms all of it, and armed otherwise. -/
theorem phase_ackReceived {s : State} {a : Byte} (hr : s.running) (h : s.inv) (ha : a.toNat < maxSeq s.cfg)
    (hpos : 0 < seqDist (maxSeq s.cfg) a s.base) (hhalf : seqDist (maxSeq s.cfg) a s.base ≤ maxSeq s.cfg / 2)
    (hle : seqDist (maxSeq s.cfg) a s.base ≤ outstanding s) :
    phase (ackReceived a s) = if seqDist (maxSeq s.cfg) a s.base = outstanding s then .idle else .armed := by
  obtain ⟨⟨-, ⟨hb, hn, -⟩, -⟩, -⟩ := (inv_iff_of_running hr).mp h
  have hadvance : ackReceived a s =
      respond .ok [.byte (BitVec.ofNat 8 (seqDist (maxSeq s.cfg) a s.base))] (advance a s) := by
    simp only [ackReceived]
    rw [if_neg (by omega), if_neg (by omega), if_neg (by omega), if_neg (by omega)]
  have hall : seqDist (maxSeq s.cfg) a s.base = outstanding s ↔ a = s.nextSeq := seqDist_inj ha hn hb
  rw [hadvance, advance_running hr ha]
  by_cases he : a = s.nextSeq
  · rw [if_pos (hall.mpr he)]
    simp [phase, windowEmpty, he]
  · rw [if_neg (mt hall.mp he)]
    simp [phase, he]

/-- IS_TIMEOUT that fires makes an armed sender expired: the window is not empty, by (I4). -/
theorem phase_checkTimeout {s : State} (hr : s.running) (h : s.inv) :
    phase (checkTimeout s) =
      if s.timerRunning = true ∧ s.timerStart + s.cfg.timeout < s.now then .expired else phase s := by
  have hexp : timerExpired s = true ↔ s.timerRunning = true ∧ s.timerStart + s.cfg.timeout < s.now := by
    rw [timerExpired_iff]
    exact and_congr_right fun _ => by omega
  rcases checkTimeout_cases s with ⟨hx, e⟩ | ⟨hx, e⟩
  · have hne : windowEmpty s = false := windowEmpty_of_timerRunning hr h (hexp.mp hx).1
    rw [if_pos (hexp.mp hx), e]
    simpa [phase, windowEmpty] using hne
  · rw [if_neg (by rw [← hexp, hx]; decide), e]
    rfl

/-- RETRANSMIT of a window that is not empty arms the sender. -/
theorem phase_resendWindow {s : State} (hr : s.running) (h : s.inv) :
    phase (resendWindow s) = if phase s = .idle then .idle else .armed := by
  obtain ⟨n, ch, e, outs, -, heq⟩ := resendWindow_eq s
  have htimer := windowEmpty_of_timerRunning hr h
  have hempty : windowEmpty (resendWindow s) = windowEmpty s := by
    rw [heq]
    rfl
  have hrun : (resendWindow s).timerRunning = (!windowEmpty s || s.timerRunning) := by
    rw [heq]
    rfl
  unfold phase
  rw [hempty, hrun]
  cases ht : s.timerRunning
  · cases windowEmpty s <;> rfl
  · rw [htimer ht]
    rfl

/-- Settles O44: one lemma per row of the transition table. -/
theorem senderPhaseTransitions : Obligations.SenderPhaseTransitions := by
  intro s t hr h
  have ran : ∀ {i : Instr}, exec i s = .next t → t = effect i s := fun he =>
    (Host.Outcome.next.inj ((exec_running hr _).symm.trans he)).symm
  refine ⟨fun p he hp hw => ?_, fun a he ha hpos hhalf hle => ?_, fun he => ?_, fun he => ?_⟩
  · exact ran he ▸ phase_submit hr h hp hw
  · exact ran he ▸ phase_ackReceived hr h ha hpos hhalf hle
  · exact ran he ▸ phase_checkTimeout hr h
  · exact ran he ▸ phase_resendWindow hr h

end Sys2Proof.Machine
end

section
/-! PROOFS. The configuration's legality (R22), the reset values (R40, R280) and what READ answers (R39, R233). -/

namespace Sys2Proof.Machine

/-- Settles O55: `cfgLegal` tests the ranges of R22 one by one. -/
theorem configurationLegality : Obligations.ConfigurationLegality := by
  intro c
  simp only [cfgLegal, probLegal, Bool.and_eq_true, decide_eq_true_eq, List.forall_mem_cons, List.not_mem_nil,
    false_implies, implies_true, and_true, and_assoc]
  rfl

/-- Settles O54: RESET leaves the reset sequence's registers; legality of the record decides `fault` and the answer. -/
theorem resetGivesTheResetValues : Obligations.ResetGivesTheResetValues := by
  intro s
  refine ⟨effect .reset s, rfl, ?_⟩
  unfold effect
  cases hl : cfgLegal s.cfgPort <;> simp [fConfigInvalid]

/-! ### The values READ answers (R39) -/

/-- A value that fits 64 bits is read as it is (assumption 11). -/
theorem zext64_toNat (sel : Selector) {v : Nat} (h : v < 2 ^ 64) : (zext64 sel v).toNat = v := by
  rw [zext64, if_pos h, BitVec.toNat_ofNat, Nat.mod_eq_of_lt h]

/-- Zero-extension to 64 bits keeps the value. -/
theorem zeroExtend_toNat {w : Nat} (hw : w ≤ 64) (x : BitVec w) : (x.zeroExtend 64).toNat = x.toNat :=
  BitVec.toNat_setWidth_of_le hw

theorem outstanding_lt_two_pow (s : State) : outstanding s < 2 ^ 64 :=
  calc outstanding s < maxSeq s.cfg := seqDist_lt (maxSeq_pos _) _ _
    _ ≤ 2 ^ 64 := Nat.pow_le_pow_right (by decide) (by have := s.cfg.seqBits.isLt; omega)

/-- MAX_SEQ fits its 9-bit field where SEQ_BITS is at most 8 (assumption 12). -/
theorem maxSeqField_toNat {c : Cfg} (h : c.seqBits.toNat ≤ 8) : (maxSeqField c).toNat = 2 ^ c.seqBits.toNat := by
  have hle : 2 ^ c.seqBits.toNat ≤ 2 ^ 8 := Nat.pow_le_pow_right (by decide) h
  rw [maxSeqField, if_pos h, BitVec.toNat_ofNat]
  exact Nat.mod_eq_of_lt (hle.trans_lt (by decide))

theorem chStateCode_eq (ch : ChState) : chStateCode ch = if ch = .bad then 1 else 0 := by
  cases ch <;> rfl

theorem phaseCode_eq (s : State) :
    phaseCode (phase s) = if s.timerRunning = true then 1 else if s.base = s.nextSeq then 0 else 2 := by
  simp only [phase, windowEmpty, beq_iff_eq]
  split_ifs <;> rfl

/-- Settles O51: READ is not guarded, and each selector's value is its register's, widened. -/
theorem readAnswersTheRegister : Obligations.ReadAnswersTheRegister := by
  intro sel s
  have hch : chStateCode s.chState < 2 ^ 64 := by
    rw [chStateCode_eq]
    split <;> decide
  have hph : phaseCode (phase s) < 2 ^ 64 := by cases phase s <;> decide
  refine ⟨rfl, zeroExtend_toNat (by decide) _, zeroExtend_toNat (by decide) _,
    zext64_toNat _ (outstanding_lt_two_pow s), ?timerRunning, zext64_toNat _, zext64_toNat _,
    zeroExtend_toNat (by decide) _, zext64_toNat _, ?chState, zext64_toNat _, zext64_toNat _,
    zeroExtend_toNat (by decide) _, ?phase, zeroExtend_toNat (by decide) _, zeroExtend_toNat (by decide) _,
    fun hb => ?maxSeq, zext64_toNat _, zeroExtend_toNat (by decide) _, zeroExtend_toNat (by decide) _,
    zeroExtend_toNat (by decide) _, zeroExtend_toNat (by decide) _, fun hc => ?unbounded, fun n hc hn => ?capacity⟩
  case timerRunning => cases h : s.timerRunning <;> simp [readValue, h]
  case chState => exact (zext64_toNat .chState hch).trans (chStateCode_eq _)
  case phase => exact (zext64_toNat .phase hph).trans (phaseCode_eq s)
  case maxSeq => exact (zeroExtend_toNat (by decide) _).trans (maxSeqField_toNat hb)
  case unbounded => simp [readValue, hc]
  case capacity => simpa [readValue, hc] using zext64_toNat .logCapacity hn

end Sys2Proof.Machine
end

section
/-! PROOFS. The order of commands on the port and the commands that only answer (R67, R70). -/

namespace Sys2Proof.Machine

/-! ### Taking the oldest command off the port -/

theorem dropCommand_eq {s : State} {cmd : Bytes} {rest : List Bytes} (h : s.commands = cmd :: rest) :
    dropCommand s = { s with commands := rest } := by
  rw [dropCommand, h, List.tail_cons]

theorem step_of_decode_ok {s : State} {cmd : Bytes} {rest : List Bytes} {i : Instr} (h : s.commands = cmd :: rest)
    (hd : decode cmd = .ok i) : step s = exec i (dropCommand s) := by
  simp only [step, h, hd]

/-- Settles O11: a legal command runs on `dropCommand s`, which is `s` without the byte string taken. -/
theorem stepRunsTheOldestCommand : Obligations.StepRunsTheOldestCommand := by
  intro s cmd rest i h hd
  rw [step_of_decode_ok h hd, dropCommand_eq h]

/-! ### Answering writes no state -/

theorem respond_sameButResponses (st : Status) (outs : List Output) (s : State) :
    s.sameButResponses (respond st outs s) := rfl

theorem slotAnswer_sameButResponses (q : Byte) (s : State) : s.sameButResponses (slotAnswer q s) := by
  unfold slotAnswer
  split
  · exact respond_sameButResponses _ _ s
  · split <;> exact respond_sameButResponses _ _ s

theorem entryAnswer_sameButResponses (n : BitVec 16) (s : State) : s.sameButResponses (entryAnswer n s) := by
  unfold entryAnswer
  split <;> exact respond_sameButResponses _ _ s

/-- An instruction whose effect only answers changes no state: a halted block only answers too (R257). -/
theorem exec_sameButResponses {i : Instr} {s t : State} (hi : s.sameButResponses (effect i s))
    (h : exec i s = .next t) : s.sameButResponses t := by
  rcases exec_next h with ⟨rfl, -⟩ | ⟨rfl, -⟩
  · exact hi
  · exact respond_sameButResponses _ _ s

theorem exec_decode_frame {b : Bytes} {s t : State} (h : exec (.decode b) s = .next t) :
    t = { s with responses := t.responses, dr := t.dr } := by
  rcases exec_next h with ⟨rfl, -⟩ | ⟨rfl, -⟩ <;> rfl

/-- Settles O23: past the guard each of these only answers, and DECODE writes `DR` besides. -/
theorem readsChangeNoState : Obligations.ReadsChangeNoState := by
  intro s t
  refine ⟨?crc32, ?verify, ?encode, ?read, ?readBuf, ?readLog, ?frameData, ?frameAck, fun b => exec_decode_frame⟩
  case readBuf => exact fun q => exec_sameButResponses (slotAnswer_sameButResponses q s)
  case readLog => exact fun n => exec_sameButResponses (entryAnswer_sameButResponses n s)
  all_goals
    intros
    refine exec_sameButResponses ?_ ‹_›
    exact respond_sameButResponses _ _ s

end Sys2Proof.Machine
end

section
/-! PROOFS. The command format (R85-R95, R99): what the encoder writes the decoder reads back, what the decoder accepts
is what the encoder writes, and what it refuses. -/

namespace Sys2Proof

/-! ### The opcode byte (R94) -/

/-- Behind a listed opcode the decoder is the operand parser of that command. -/
theorem decode_opcodeByte (op : Opcode) (rest : Bytes) : decode (opcodeByte op :: rest) = decodeOperands op rest := by
  simp only [decode, opcodeOf_opcodeByte]

theorem opcodeOf_eq_none {b : Byte} (h : b ∉ opcodeMap.map (·.1)) : opcodeOf b = none := by
  simp only [opcodeOf, Option.map_eq_none_iff, List.find?_eq_none, beq_iff_eq]
  rintro row hrow rfl
  exact h (List.mem_map_of_mem hrow)

/-- Settles O5: the listed bytes are the keys of the opcode map. -/
theorem unlistedOpcodesAreIllegal : Obligations.UnlistedOpcodesAreIllegal := by
  intro b rest h
  simp only [decode, opcodeOf_eq_none h]

/-! ### Words written out (R86-R92, R95) -/

/-- Settles O1: each word starts with the opcode byte of its command, and its operands are closed bytes. -/
theorem listedCommandsDecode : Obligations.ListedCommandsDecode :=
  ⟨decode_opcodeByte .crc32 _, decode_opcodeByte .encode _, decode_opcodeByte .isCorrupt _,
    decode_opcodeByte .propagate _, decode_opcodeByte .onAck _, decode_opcodeByte .onFrame _,
    decode_opcodeByte .tick _, decode_opcodeByte .read _, decode_opcodeByte .readLog _⟩

/-- Settles O6: `pres = 0`, `L = 0` is `ABSENT`, which `parseWire` accepts and `parseBytes` refuses. -/
theorem absentOperandsByCommand : Obligations.AbsentOperandsByCommand := by
  refine ⟨?_, decode_opcodeByte .propagate _, decode_opcodeByte .propagateBsc _, decode_opcodeByte .ackIn _,
    decode_opcodeByte .onFrame _⟩
  simp only [List.forall_mem_cons, List.not_mem_nil, false_implies, implies_true, and_true]
  exact ⟨decode_opcodeByte .crc32 _, decode_opcodeByte .verify _, decode_opcodeByte .decode _,
    decode_opcodeByte .submit _⟩

/-! ### Encode, then decode -/

/-- Settles O2: behind the opcode stands what the command's parser reads back. -/
theorem encodedCommandsDecodeBack : Obligations.EncodedCommandsDecodeBack := by
  intro i hw hc
  cases i
  case crc32 | verify | decode | submit =>
    exact (decode_opcodeByte _ _).trans (congrArg (Except.map _) (parseBytes_wireBytes hw))
  case propagate | propagateBsc | ackIn | onFrame =>
    exact (decode_opcodeByte _ _).trans (congrArg (Except.map _) (parseWire_wireBytes hw))
  case encode => exact (decode_opcodeByte _ _).trans (congrArg (Except.map _) (parseFrame_frameRecordBytes hw))
  case tick => exact (decode_opcodeByte _ _).trans (congrArg (Except.map _) (parseDelta_be32 _))
  case readLog => exact (decode_opcodeByte _ _).trans (congrArg (Except.map _) (parseIndex_be16 _))
  case read sel =>
    have hsel : parseSelector [selectorByte sel] = .ok sel := by simp only [parseSelector, selectorOf_selectorByte]
    exact (decode_opcodeByte _ _).trans (congrArg (Except.map _) hsel)
  case isCorrupt | isTimeout | retransmit | reset | onAck | readBuf => exact decode_opcodeByte _ _
  case frameData | frameAck => cases hc

/-! ### What each parser accepts (R86-R92) -/

/-- A byte of a word with a byte appended, other than that byte, is a byte of the word. -/
theorem extractByte_append {w k : Nat} (hi : BitVec w) (lo : Byte) :
    (hi ++ lo).extractLsb' (k + 8) 8 = hi.extractLsb' k 8 :=
  BitVec.extractLsb'_append_eq_of_le (Nat.le_add_left 8 k)

theorem be32_fromBE32 (b3 b2 b1 b0 : Byte) : be32 (fromBE32 b3 b2 b1 b0) = [b3, b2, b1, b0] := by
  have h0 : (fromBE32 b3 b2 b1 b0).extractLsb' 0 8 = b0 := BitVec.extractLsb'_append_eq_right
  have h1 : (fromBE32 b3 b2 b1 b0).extractLsb' 8 8 = b1 :=
    (extractByte_append _ _).trans BitVec.extractLsb'_append_eq_right
  have h2 : (fromBE32 b3 b2 b1 b0).extractLsb' 16 8 = b2 :=
    (extractByte_append (k := 8) _ _).trans ((extractByte_append _ _).trans BitVec.extractLsb'_append_eq_right)
  have h3 : (fromBE32 b3 b2 b1 b0).extractLsb' 24 8 = b3 :=
    (extractByte_append (k := 16) _ _).trans ((extractByte_append (k := 8) _ _).trans BitVec.extractLsb'_append_eq_left)
  rw [be32, h3, h2, h1, h0]

theorem kindCode_of_kindOfCode {b : Byte} {k : FrameKind} (h : kindOfCode b = some k) : kindCode k = b := by
  unfold kindOfCode at h
  split_ifs at h with h0 h1
  · cases h
    exact h0.symm
  · cases h
    exact h1.symm

/-- A length field that holds `n` is the big-endian bytes of `n`. -/
theorem be16_of_lengthField {n : Nat} {l1 l0 : Byte} (h : n = (fromBE16 l1 l0).toNat) :
    be16 (BitVec.ofNat 16 n) = [l1, l0] := by
  rw [h, BitVec.ofNat_toNat, BitVec.setWidth_eq, be16_fromBE16]

theorem le_maxOperandBytes_of_lengthField {n : Nat} {l1 l0 : Byte} (h : n = (fromBE16 l1 l0).toNat) :
    n ≤ maxOperandBytes :=
  h ▸ Nat.le_of_lt_succ (fromBE16 l1 l0).isLt

theorem parseNone_ok {i j : Instr} {rest : Bytes} (h : parseNone i rest = .ok j) : j = i ∧ [] = rest := by
  cases rest with
  | nil => exact ⟨(Except.ok.inj h).symm, rfl⟩
  | cons => cases h

theorem parseSeq_ok {rest : Bytes} {q : Byte} (h : parseSeq rest = .ok q) : [q] = rest := by
  unfold parseSeq at h
  split at h
  · rw [Except.ok.inj h]
  · cases h

theorem parseSelector_ok {rest : Bytes} {sel : Selector} (h : parseSelector rest = .ok sel) :
    [selectorByte sel] = rest := by
  unfold parseSelector at h
  split at h
  · split at h
    · next hsel =>
      cases h
      rw [selectorByte_of_selectorOf hsel]
    · cases h
  · cases h

theorem parseDelta_ok {rest : Bytes} {d : BitVec 32} (h : parseDelta rest = .ok d) : be32 d = rest := by
  unfold parseDelta at h
  split at h
  · cases h
    exact be32_fromBE32 _ _ _ _
  · cases h

theorem parseIndex_ok {rest : Bytes} {n : BitVec 16} (h : parseIndex rest = .ok n) : be16 n = rest := by
  unfold parseIndex at h
  split at h
  · cases h
    exact be16_fromBE16 _ _
  · cases h

theorem parseWire_ok {rest : Bytes} {w : Wire} (h : parseWire rest = .ok w) :
    wireFits w = true ∧ wireBytes w = rest := by
  unfold parseWire at h
  split at h
  · next pres l1 l0 d =>
    split_ifs at h with hlen hpresent habsent
    · cases h
      have hfield := not_not.mp hlen
      refine ⟨decide_eq_true (le_maxOperandBytes_of_lengthField hfield), ?_⟩
      rw [wireBytes, be16_of_lengthField hfield, hpresent]
      rfl
    · cases h
      obtain ⟨rfl, rfl⟩ := habsent
      exact ⟨rfl, congrArg _ (be16_of_lengthField (not_not.mp hlen))⟩
  · cases h

theorem parseBytes_ok {rest b : Bytes} (h : parseBytes rest = .ok b) :
    fitsOperand b = true ∧ wireBytes (some b) = rest := by
  unfold parseBytes at h
  split at h
  · next hw =>
    cases h
    exact parseWire_ok hw
  · cases h
  · cases h

theorem parseFrame_ok {rest : Bytes} {f : Frame} (h : parseFrame rest = .ok f) :
    fitsFrame f.payload = true ∧ frameRecordBytes f = rest := by
  unfold parseFrame at h
  split at h
  · split_ifs at h with hlen hlong
    split at h
    · next hk =>
      cases h
      refine ⟨decide_eq_true (Nat.not_lt.mp hlong), ?_⟩
      rw [frameRecordBytes, kindCode_of_kindOfCode hk, be16_of_lengthField (not_not.mp hlen)]
      rfl
    · cases h
  · cases h

/-! ### Decode, then encode -/

/-- The bytes are the one spelling of a well-formed command. -/
def Spells (cmd : Bytes) (i : Instr) : Prop := i.wellFormed = true ∧ i.isCommand = true ∧ encode i = cmd

/-- A parsed operand makes the command it stands in. -/
theorem spells_of_map {α : Type} {parsed : Except DecodeError α} {mk : α → Instr} {cmd : Bytes} {i : Instr}
    (h : parsed.map mk = .ok i) (hmk : ∀ a, parsed = .ok a → Spells cmd (mk a)) : Spells cmd i := by
  cases parsed with
  | error => cases h
  | ok a =>
    cases h
    exact hmk a rfl

theorem decodeOperands_ok {op : Opcode} {rest : Bytes} {i : Instr} (h : decodeOperands op rest = .ok i) :
    Spells (opcodeByte op :: rest) i := by
  cases op
  case crc32 | verify | decode | submit =>
    exact spells_of_map h fun b hb => (parseBytes_ok hb).imp id fun e => ⟨rfl, congrArg _ e⟩
  case propagate | propagateBsc | ackIn | onFrame =>
    exact spells_of_map h fun w hw => (parseWire_ok hw).imp id fun e => ⟨rfl, congrArg _ e⟩
  case encode => exact spells_of_map h fun f hf => (parseFrame_ok hf).imp id fun e => ⟨rfl, congrArg _ e⟩
  case onAck | readBuf => exact spells_of_map h fun q hq => ⟨rfl, rfl, congrArg _ (parseSeq_ok hq)⟩
  case tick => exact spells_of_map h fun d hd => ⟨rfl, rfl, congrArg _ (parseDelta_ok hd)⟩
  case read => exact spells_of_map h fun sel hsel => ⟨rfl, rfl, congrArg _ (parseSelector_ok hsel)⟩
  case readLog => exact spells_of_map h fun n hn => ⟨rfl, rfl, congrArg _ (parseIndex_ok hn)⟩
  case isCorrupt | isTimeout | retransmit | reset =>
    obtain ⟨rfl, rfl⟩ := parseNone_ok h
    exact ⟨rfl, rfl, rfl⟩

/-- Settles O3: the opcode byte is the command's, and each parser accepts its operands' one spelling only. -/
theorem acceptedBytesAreTheEncoding : Obligations.AcceptedBytesAreTheEncoding := by
  intro cmd i h
  cases cmd with
  | nil => cases h
  | cons b rest =>
    simp only [decode] at h
    split at h
    · cases h
    · next op hop => exact opcodeByte_of_opcodeOf hop ▸ decodeOperands_ok h

/-! ### Lengths (R99) -/

theorem commandLength_opcodeByte (op : Opcode) (rest : Bytes) :
    commandLength (opcodeByte op :: rest) = formatLength (opcodeFormat op) (opcodeByte op :: rest) := by
  simp only [commandLength, List.getD_cons_zero, opcodeOf_opcodeByte]

/-- Format B: the length field holds what the operand's length is. -/
theorem formatLength_wireBytes (op : Opcode) {w : Wire} (h : wireFits w = true) :
    formatLength .b (opcodeByte op :: wireBytes w) = (opcodeByte op :: wireBytes w).length := by
  rw [Laws.EncodedLength.wireOperand]
  cases w with
  | none => simp [formatLength, wireBytes, be16, fromBE16]
  | some d =>
    have hd : d.length ≤ 65535 := of_decide_eq_true h
    simp [formatLength, wireBytes, be16, fromBE16_be16, Nat.mod_eq_of_lt (show d.length < 65536 by omega)]

/-- Format F: the length field holds what the payload's length is. -/
theorem formatLength_frameRecordBytes {f : Frame} (h : fitsFrame f.payload = true) :
    formatLength .f (encode (.encode f)) = (encode (.encode f)).length := by
  have hl : f.payload.length ≤ 65527 := of_decide_eq_true h
  refine Eq.trans ?_ (Laws.EncodedLength.encode f).symm
  simp [formatLength, encode, frameRecordBytes, be16, fromBE16_be16, Laws.EncodedLength.lengthOf,
    Nat.mod_eq_of_lt (show f.payload.length < 65536 by omega)]

theorem commandLength_encode {i : Instr} (hw : i.wellFormed = true) (hc : i.isCommand = true) :
    commandLength (encode i) = (encode i).length := by
  cases i
  case crc32 b | verify b | decode b | submit b =>
    exact (commandLength_opcodeByte _ _).trans (formatLength_wireBytes _ (w := some b) hw)
  case propagate | propagateBsc | ackIn | onFrame =>
    exact (commandLength_opcodeByte _ _).trans (formatLength_wireBytes _ hw)
  case encode => exact (commandLength_opcodeByte _ _).trans (formatLength_frameRecordBytes hw)
  case frameData | frameAck => cases hc
  -- Formats N, S, R, T and I have no length field.
  all_goals exact commandLength_opcodeByte _ _

/-- Settles O4: an accepted byte string is an encoding, and an encoding has the length its length field gives. -/
theorem legalCommandsHaveTheirLength : Obligations.LegalCommandsHaveTheirLength := by
  intro cmd i h
  obtain ⟨hw, hc, rfl⟩ := acceptedBytesAreTheEncoding cmd i h
  exact (commandLength_encode hw hc).symm

end Sys2Proof
end

section
/-! PROOFS. The wire frame (R80-R83, R113, R115): the decoder inverts the encoder, and accepts nothing else. -/

namespace Sys2Proof

/-- A byte string that decodes valid passes every check of R115, and the frame is read off its bytes. -/
theorem decodeFrame_valid {b : Bytes} {f : Frame} (h : decodeFrame b = .valid f) :
    8 ≤ b.length ∧ embeddedChecksum b = crc32 (b.drop 4) ∧ kindCode f.kind = b.getD 5 0 ∧ f.seqNum = b.getD 4 0 ∧
      f.senderId = b.getD 6 0 ∧ f.receiverId = b.getD 7 0 ∧ f.payload = b.drop 8 := by
  unfold decodeFrame at h
  split_ifs at h with hsix hsum height
  split at h
  · cases h
  · next k hk =>
    cases h
    exact ⟨Nat.not_lt.mp height, not_not.mp hsum, kindCode_of_kindOfCode hk, rfl, rfl, rfl, rfl⟩

/-- The checksum's four bytes are the big-endian bytes of its value. -/
theorem be32_embeddedChecksum : ∀ {b : Bytes}, 4 ≤ b.length → be32 (embeddedChecksum b) = b.take 4
  | c3 :: c2 :: c1 :: c0 :: _, _ => be32_fromBE32 c3 c2 c1 c0

/-- Bytes 4 to 7 and what follows them are the part the checksum covers (R82). -/
theorem headerBytes_append : ∀ {b : Bytes}, 8 ≤ b.length →
    [b.getD 4 0] ++ [b.getD 5 0] ++ [b.getD 6 0] ++ [b.getD 7 0] ++ b.drop 8 = b.drop 4
  | _ :: _ :: _ :: _ :: _ :: _ :: _ :: _ :: _, _ => rfl

/-- Settles O9: the checksum and the four header bytes are where the encoder puts them, and the payload is the rest. -/
theorem validBytesAreTheFramesEncoding : Obligations.ValidBytesAreTheFramesEncoding := by
  intro b f h
  obtain ⟨hlen, hsum, hkind, hseq, hsid, hrid, hpayload⟩ := decodeFrame_valid h
  have hbody : b.drop 4 = frameBody f := by
    simp only [frameBody, hkind, hseq, hsid, hrid, hpayload]
    exact (headerBytes_append hlen).symm
  calc b = b.take 4 ++ b.drop 4 := (List.take_append_drop 4 b).symm
    _ = encodeFrame f := by rw [← be32_embeddedChecksum (by omega), hsum, hbody, encodeFrame]

/-- The round trip of R120. -/
theorem decodeFrame_encodeFrame (f : Frame) : decodeFrame (encodeFrame f) = .valid f := by
  have hkind : kindOfCode ((encodeFrame f).getD 5 0) = some f.kind := kindOfCode_kindCode f.kind
  have hsum : embeddedChecksum (encodeFrame f) = crc32 ((encodeFrame f).drop 4) := embeddedChecksum_encodeFrame f
  have hlen := encodeFrame_length f
  unfold decodeFrame
  rw [if_neg (by omega), if_neg (not_not.mpr hsum), if_neg (by omega), hkind]
  rfl

end Sys2Proof

namespace Sys2Proof.Machine

/-- Settles O22: each row decodes the bytes it encodes. -/
theorem wireFramesDecodeToThemselves : Obligations.WireFramesDecodeToThemselves := by
  intro q sid rid p s hr
  rw [exec_running hr, exec_running hr]
  simp only [effect, encode, decodeFrame_encodeFrame]
  exact ⟨rfl, rfl⟩

end Sys2Proof.Machine
end

section
/-! PROOFS. What a command answers: one response each (R96), and FAULT for an illegal one (R85, R256). -/

namespace Sys2Proof.Machine

/-! ### An illegal command -/

theorem step_of_decode_error {s : State} {cmd : Bytes} {rest : List Bytes} {e : DecodeError}
    (h : s.commands = cmd :: rest) (hd : decode cmd = .error e) : step s = rejectCommand cmd (dropCommand s) := by
  simp only [step, h, hd]

/-- With no fault bit set, an illegal byte string faults (R85, R255). -/
theorem rejectCommand_of_fault_eq_zero {s : State} (h : s.fault = 0) (cmd : Bytes) :
    rejectCommand cmd s = .next (raiseFault fIllegalCommand s) := by
  simp [rejectCommand, halted, h]

/-- Settles O12: the byte string is taken off the port and rejected, and bit 0 is the only one set. -/
theorem illegalCommandsOnlyFault : Obligations.IllegalCommandsOnlyFault := by
  intro s cmd rest e hf h hd
  have hdrop : (dropCommand s).fault = 0 := hf
  rw [step_of_decode_error h hd, rejectCommand_of_fault_eq_zero hdrop, dropCommand_eq h]
  simp only [raiseFault, respond, setFault, hf]
  rfl

/-! ### One response per instruction -/

/-- `t` has one response more than `s`, and that one has no outputs where its status is FAULT or HALTED (R96). -/
def AnswersOnce (s t : State) : Prop :=
  ∃ r, t.responses = s.responses ++ [r] ∧ (r.status = .fault ∨ r.status = .halted → r.outputs = [])

/-- A response without outputs, after updates that give none. -/
theorem respond_nil_answersOnce {s u : State} (st : Status) (hu : u.responses = s.responses) :
    AnswersOnce s (respond st [] u) :=
  ⟨{ status := st, outputs := [] }, by rw [respond_responses, hu], fun _ => rfl⟩

/-- A response with outputs, after updates that give none. -/
theorem respond_answersOnce {s u : State} {st : Status} (outs : List Output) (hfault : st ≠ .fault)
    (hhalted : st ≠ .halted) (hu : u.responses = s.responses) : AnswersOnce s (respond st outs u) :=
  ⟨{ status := st, outputs := outs }, by rw [respond_responses, hu], fun h => (h.elim hfault hhalted).elim⟩

theorem respond_ok_answersOnce {s u : State} (outs : List Output) (hu : u.responses = s.responses) :
    AnswersOnce s (respond .ok outs u) :=
  respond_answersOnce outs (by decide) (by decide) hu

theorem raiseFault_answersOnce {s u : State} (bit : BitVec 8) (hu : u.responses = s.responses) :
    AnswersOnce s (raiseFault bit u) :=
  respond_nil_answersOnce .fault hu

theorem reportDecode_answersOnce {s u : State} (r : DecodeResult) (hu : u.responses = s.responses) :
    AnswersOnce s (reportDecode r u) := by
  obtain ⟨hfault, hhalted⟩ : decodeStatus r ≠ .fault ∧ decodeStatus r ≠ .halted := by
    rcases r with ⟨_ | _, _⟩ | _ <;> simp [decodeStatus, corruptStatus]
  exact respond_answersOnce _ hfault hhalted hu

theorem isCorruptOf_answersOnce (s : State) : AnswersOnce s (isCorruptOf s) := by
  unfold isCorruptOf
  split
  · exact raiseFault_answersOnce _ rfl
  · exact respond_ok_answersOnce _ rfl
  · exact respond_ok_answersOnce _ rfl

theorem submit_answersOnce (p : Bytes) (s : State) : AnswersOnce s (submit p s) := by
  rcases submit_cases p s with ⟨st, -, e⟩ | e
  · rw [e]
    exact respond_nil_answersOnce st rfl
  · rw [e, submitAccepted_eq p s _ rfl]
    exact respond_ok_answersOnce _ rfl

theorem advance_responses (a : Byte) (s : State) : (advance a s).responses = s.responses := by
  rw [advance_eq a s _ _ rfl]

theorem ackReceived_answersOnce (a : Byte) (s : State) : AnswersOnce s (ackReceived a s) := by
  rcases ackReceived_cases a s with ⟨st, -, e⟩ | e | e
  · rw [e]
    exact respond_nil_answersOnce st rfl
  · rw [e]
    exact respond_ok_answersOnce _ (advance_responses a s)
  · rw [e]
    exact raiseFault_answersOnce _ (advance_responses a s)

theorem ackArrived_answersOnce (w : Wire) (s : State) : AnswersOnce s (ackArrived w s) := by
  rcases ackArrived_cases w s with ⟨st, -, e⟩ | ⟨b, f, -, -, -, e⟩
  · rw [e]
    exact respond_nil_answersOnce st rfl
  · rw [e]
    exact ackReceived_answersOnce f.seqNum s

theorem checkTimeout_answersOnce (s : State) : AnswersOnce s (checkTimeout s) := by
  rcases checkTimeout_cases s with ⟨-, e⟩ | ⟨-, e⟩
  · rw [e]
    exact respond_ok_answersOnce _ rfl
  · rw [e]
    exact respond_ok_answersOnce _ rfl

theorem resendWindow_answersOnce (s : State) : AnswersOnce s (resendWindow s) := by
  obtain ⟨n, ch, ent, outs, -, e⟩ := resendWindow_eq s
  rw [e]
  exact respond_ok_answersOnce _ rfl

theorem frameArrived_answersOnce (w : Wire) (s : State) : AnswersOnce s (frameArrived w s) := by
  rcases frameArrived_cases w s with e | ⟨st, hfault, hhalted, e⟩ | ⟨b, f, -, -, -, -, ⟨-, e⟩ | ⟨-, e⟩⟩
  · rw [e]
    exact respond_answersOnce _ (by decide) (by decide) rfl
  · rw [e]
    exact respond_answersOnce _ hfault hhalted rfl
  · rw [e]
    exact respond_ok_answersOnce _ rfl
  · rw [e]
    exact raiseFault_answersOnce _ rfl

theorem slotAnswer_answersOnce (q : Byte) (s : State) : AnswersOnce s (slotAnswer q s) := by
  unfold slotAnswer
  split
  · exact respond_nil_answersOnce _ rfl
  · split
    · exact respond_nil_answersOnce _ rfl
    · exact respond_ok_answersOnce _ rfl

theorem entryAnswer_answersOnce (n : BitVec 16) (s : State) : AnswersOnce s (entryAnswer n s) := by
  unfold entryAnswer
  split
  · exact respond_nil_answersOnce _ rfl
  · exact respond_ok_answersOnce _ rfl

theorem reset_answersOnce (s : State) : AnswersOnce s (effect .reset s) := by
  unfold effect
  dsimp only
  split
  · exact respond_ok_answersOnce _ rfl
  · exact raiseFault_answersOnce _ rfl

theorem effect_answersOnce (i : Instr) (s : State) : AnswersOnce s (effect i s) := by
  cases i
  case decode | frameData | frameAck => exact reportDecode_answersOnce _ rfl
  case isCorrupt => exact isCorruptOf_answersOnce s
  case submit p => exact submit_answersOnce p s
  case onAck a => exact ackReceived_answersOnce a s
  case ackIn w => exact ackArrived_answersOnce w s
  case isTimeout => exact checkTimeout_answersOnce s
  case retransmit => exact resendWindow_answersOnce s
  case onFrame w => exact frameArrived_answersOnce w s
  case readBuf q => exact slotAnswer_answersOnce q s
  case readLog n => exact entryAnswer_answersOnce n s
  case reset => exact reset_answersOnce s
  -- The others answer OK, whatever they find.
  all_goals exact respond_ok_answersOnce _ rfl

/-- Settles O16: the instruction ran and its effect answers once, or a halted block answered HALTED without outputs. -/
theorem oneResponsePerCommand : Obligations.OneResponsePerCommand := by
  intro i s t h
  rcases exec_next h with ⟨rfl, -⟩ | ⟨rfl, -⟩
  · exact effect_answersOnce i s
  · exact respond_nil_answersOnce .halted rfl

end Sys2Proof.Machine
end

section
/-! PROOFS. The codec (40_codec.md): what decides the class of a decode (R115), that one changed byte never passes the
checksum (R110, R121), and what the codec's commands answer (R111-R119). -/

namespace Sys2Proof

/-! ### The checks of `Decode`, in their order (R115) -/

theorem decodeFrame_of_length_lt_six {b : Bytes} (h : b.length < 6) :
    decodeFrame b = .corrupt .structural (diagSeq b) := if_pos h

theorem decodeFrame_of_checksum_ne {b : Bytes} (hlen : 6 ≤ b.length) (h : embeddedChecksum b ≠ crc32 (b.drop 4)) :
    decodeFrame b = .corrupt .integrity (diagSeq b) := by
  rw [decodeFrame, if_neg (Nat.not_lt.mpr hlen), if_pos h]

theorem decodeFrame_of_length_lt_eight {b : Bytes} (hlen : 6 ≤ b.length)
    (hsum : embeddedChecksum b = crc32 (b.drop 4)) (h : b.length < 8) :
    decodeFrame b = .corrupt .structural (diagSeq b) := by
  rw [decodeFrame, if_neg (Nat.not_lt.mpr hlen), if_neg (not_not.mpr hsum), if_pos h]

/-- Past the length and the checksum, the kind code decides. -/
theorem decodeFrame_of_checksum_eq {b : Bytes} (hlen : 8 ≤ b.length) (hsum : embeddedChecksum b = crc32 (b.drop 4)) :
    decodeFrame b = (kindOfCode (b.getD 5 0)).elim (.corrupt .structural (diagSeq b)) fun k => .valid {
      kind := k, seqNum := b.getD 4 0, senderId := b.getD 6 0, receiverId := b.getD 7 0, payload := b.drop 8 } := by
  rw [decodeFrame, if_neg (by omega), if_neg (not_not.mpr hsum), if_neg (by omega)]
  cases kindOfCode (b.getD 5 0) <;> rfl

theorem kindOfCode_eq_none {c : Byte} (hdata : c ≠ 0x00) (hack : c ≠ 0x01) : kindOfCode c = none := by
  rw [kindOfCode, if_neg hdata, if_neg hack]

/-- Settles O7: one lemma per check that fails; a byte string that passes them all has one of the two kind codes. -/
theorem decodeClassifiesInOrder : Obligations.DecodeClassifiesInOrder := by
  intro b
  refine ⟨decodeFrame_of_length_lt_six, decodeFrame_of_checksum_ne, decodeFrame_of_length_lt_eight,
    ?unknownKind, ?data, ?ack, fun h => if_pos h, fun h => if_neg (Nat.not_le.mpr h)⟩
  case unknownKind =>
    intro hlen hsum hdata hack
    rw [decodeFrame_of_checksum_eq hlen hsum, kindOfCode_eq_none hdata hack, Option.elim_none]
  case data =>
    intro hlen hsum hkind
    rw [decodeFrame_of_checksum_eq hlen hsum, hkind]
    rfl
  case ack =>
    intro hlen hsum hkind
    rw [decodeFrame_of_checksum_eq hlen hsum, hkind]
    rfl

/-- Settles O8: `decodeFrame_encodeFrame` says it of every frame. -/
theorem encodedFramesDecodeBack : Obligations.EncodedFramesDecodeBack := decodeFrame_encodeFrame

/-! ### The integrity code and one changed byte (R110, R121) -/

theorem crc32_nil : crc32 [] = 0 := BitVec.xor_self

theorem modify_ne_self {b : Bytes} {n : Nat} {g : Byte → Byte} (hn : n < b.length) (hg : ∀ x, g x ≠ x) :
    b.modify n g ≠ b := by
  intro h
  have hbyte := congrArg (·[n]?) h
  simp [hn, hg] at hbyte

theorem crc32_modify_ne {b : Bytes} {n : Nat} {g : Byte → Byte} (hn : n < b.length) (hg : ∀ x, g x ≠ x) :
    crc32 (b.modify n g) ≠ crc32 b := by
  obtain ⟨l, x, r, rfl, -, hmod⟩ := List.exists_of_modify g hn
  rw [hmod]
  exact crc32_ne_of_one_byte l r (hg x)

theorem embeddedChecksum_take : ∀ b : Bytes, embeddedChecksum (b.take 4) = embeddedChecksum b
  | [] | [_] | [_, _] | [_, _, _] | _ :: _ :: _ :: _ :: _ => rfl

/-- A byte string with a good checksum has a bad one after a change of one byte: in the checksum, the code of the rest
stays; in the rest, the checksum stays and the code changes. -/
theorem embeddedChecksum_modify_ne {b : Bytes} {n : Nat} {g : Byte → Byte} (hlen : 4 ≤ b.length)
    (hsum : embeddedChecksum b = crc32 (b.drop 4)) (hn : n < b.length) (hg : ∀ x, g x ≠ x) :
    embeddedChecksum (b.modify n g) ≠ crc32 ((b.modify n g).drop 4) := by
  by_cases h4 : n < 4
  · rw [List.drop_modify_of_lt _ _ _ _ h4, ← hsum]
    intro e
    have htake : (b.take 4).modify n g = b.take 4 := by
      rw [← List.take_modify, ← be32_embeddedChecksum (by rwa [List.length_modify]), e, be32_embeddedChecksum hlen]
    exact modify_ne_self (by rw [List.length_take]; omega) hg htake
  · have htake : (b.modify n g).take 4 = b.take 4 := by
      rw [List.take_modify, List.modify_eq_self (by rw [List.length_take]; omega)]
    rw [← embeddedChecksum_take, htake, embeddedChecksum_take, hsum,
      List.drop_modify_of_ge _ _ _ _ (Nat.not_lt.mp h4)]
    exact (crc32_modify_ne (by rw [List.length_drop]; omega) hg).symm

/-- Inverting one bit of a byte changes it. -/
theorem xor_shiftLeft_one_ne {m : Nat} (hm : m < 8) (x : Byte) : x ^^^ (1#8 <<< m) ≠ x := by
  intro h
  have hbit := congrArg (·.getLsbD m) h
  simp [hm] at hbit

end Sys2Proof

namespace Sys2Proof.Machine

/-- Settles O10: a flip changes one byte, so the checksum is no longer the code of the rest: class INTEGRITY. -/
theorem singleBitFlipsAreDetected : Obligations.SingleBitFlipsAreDetected := by
  intro f k hk
  have hlen := encodeFrame_length f
  have hsum : embeddedChecksum (encodeFrame f) = crc32 ((encodeFrame f).drop 4) := embeddedChecksum_encodeFrame f
  have hne : embeddedChecksum (flipBit (encodeFrame f) k) ≠ crc32 ((flipBit (encodeFrame f) k).drop 4) :=
    embeddedChecksum_modify_ne (by omega) hsum (by omega) (xor_shiftLeft_one_ne (by omega))
  exact ⟨.integrity, _, decodeFrame_of_checksum_ne (by rw [flipBit_length]; omega) hne⟩

/-! ### The codec's commands (R111-R119) -/

/-- Settles O17: a running block answers the code. -/
theorem crc32AnswersTheCode : Obligations.Crc32AnswersTheCode := fun b _ hr => exec_running hr (.crc32 b)

theorem verifyOutputs_of_length_lt {b : Bytes} (h : b.length < 4) :
    verifyOutputs b = [.flag false, .word32 0, .word32 0] := by
  rw [verifyOutputs, if_pos h, crc32_nil]

theorem verifyOutputs_cons (b3 b2 b1 b0 : Byte) (rest : Bytes) :
    verifyOutputs (b3 :: b2 :: b1 :: b0 :: rest) =
      [.flag (decide (fromBE32 b3 b2 b1 b0 = crc32 rest)), .word32 (fromBE32 b3 b2 b1 b0), .word32 (crc32 rest)] := by
  rw [verifyOutputs, if_neg (by simp only [List.length_cons]; omega)]
  rfl

/-- Settles O18: the outputs are 0 where there are no four bytes, and else the two codes and their comparison. -/
theorem verifyComparesTheCodes : Obligations.VerifyComparesTheCodes := by
  intro b s hr
  rw [exec_running hr, effect]
  constructor
  · intro h
    rw [verifyOutputs_of_length_lt h, respond]
  · rintro b3 b2 b1 b0 rest rfl
    rw [verifyOutputs_cons, respond, fromBE32]

/-- Settles O19: `encodeFrame` is the checksum of the body, then the body. -/
theorem encodeAnswersTheWireFrame : Obligations.EncodeAnswersTheWireFrame := fun f _ hr => exec_running hr (.encode f)

theorem exec_decode_running {s : State} (hr : s.running) {b : Bytes} {r : DecodeResult} (h : decodeFrame b = r) :
    exec (.decode b) s = .next (reportDecode r { s with dr := some r }) := by
  rw [exec_running hr, effect, h]

/-- Settles O20: the result goes to `DR`, and `reportDecode` answers it, a valid one and one of each class. -/
theorem decodeWritesAndAnswersTheResult : Obligations.DecodeWritesAndAnswersTheResult :=
  fun _ _ hr => ⟨fun _ => exec_decode_running hr, fun _ => exec_decode_running hr, fun _ => exec_decode_running hr⟩

/-- Settles O21: NONE faults on bit 1, the only one then set; else the answer is whether `DR` is corrupt. -/
theorem isCorruptReportsTheLastDecode : Obligations.IsCorruptReportsTheLastDecode := by
  intro s hr
  rw [exec_running hr, effect]
  refine ⟨?none, ?corrupt, ?valid⟩
  case none =>
    intro hd
    simp only [isCorruptOf, hd, raiseFault, respond, setFault, hr.1]
    rfl
  case corrupt =>
    intro cls d hd
    simp only [isCorruptOf, hd, respond]
  case valid =>
    intro f hd
    simp only [isCorruptOf, hd, respond]

end Sys2Proof.Machine
end

section
/-! PROOFS. The Channel Model (41_channel.md): the strategies on non-empty byte strings (R145-R147), the bits that flips
invert (R142), and what PROPAGATE and PROPAGATE_BSC answer (R149, R150). -/

namespace Sys2Proof.Machine

/-! ### The strategies on a byte string (R145-R147) -/

theorem onArrived_of_ne_nil {b : Bytes} (hb : b ≠ []) (ch : ChState) (e : Entropy) (run : Bytes → Crossing) :
    onArrived (some b) ch e run = run b := by
  obtain ⟨x, xs, rfl⟩ := List.exists_cons_of_ne_nil hb
  exact onArrived_cons x xs ch e run

theorem ge_of_ne_nil {b : Bytes} (hb : b ≠ []) (c : Cfg) (ch : ChState) (e : Entropy) :
    ge c (some b) ch e = geBytes c b ch e := onArrived_of_ne_nil hb ch e _

theorem bsc_of_ne_nil {b : Bytes} (hb : b ≠ []) (p : Prob) (ch : ChState) (e : Entropy) :
    bsc p (some b) ch e = bscBytes p b ch e := onArrived_of_ne_nil hb ch e _

section Loss
variable {b : Bytes} (hb : b ≠ []) {p : Prob} (ch : ChState) {e : Entropy}
  (inner : Bytes → ChState → Entropy → Crossing)
include hb

theorem loss_of_hit (h : drawResult p e = true) :
    loss p (some b) ch e inner = { wire := none, chState := ch, entropy := drawNext p e } := by
  rw [loss, onArrived_of_ne_nil hb, if_pos h]

theorem loss_of_miss (h : drawResult p e = false) :
    loss p (some b) ch e inner = inner b ch (drawNext p e) := by
  rw [loss, onArrived_of_ne_nil hb, if_neg (by simp [h])]

end Loss

/-- Settles O27: `onArrived` answers for nothing, and one draw decides for a byte string. -/
theorem nothingCrossesAsAbsent : Obligations.NothingCrossesAsAbsent := by
  intro c p ch e inner
  refine ⟨?nothing, fun b hb => ⟨loss_of_hit hb ch inner, loss_of_miss hb ch inner⟩⟩
  case nothing =>
    rintro w (rfl | rfl)
    · exact ⟨rfl, rfl, rfl⟩
    · exact ⟨rfl, rfl, rfl⟩

/-! ### Draws (R141) -/

theorem drawNext_answers_of_forced {p : Prob} (h : drawIsFree p = false) (e : Entropy) :
    (drawNext p e).answers = e.answers := by
  simp [drawNext, h]

theorem drawNext_answers_of_free {p : Prob} (h : drawIsFree p = true) (e : Entropy) :
    (drawNext p e).answers = e.answers.tail := by
  simp [drawNext, h]

theorem drawResult_of_answer {p : Prob} (h0 : p ≠ 0) (h1 : p ≠ 1) {e : Entropy} {a : Bool} {rest : List Bool}
    (he : e.answers = a :: rest) : drawResult p e = a := by
  simp [drawResult, h0, h1, he]

/-- Settles O24: the two forced draws, a free one with an answer waiting, and the record of each. -/
theorem drawsAreForcedOrTheHosts : Obligations.DrawsAreForcedOrTheHosts := by
  intro p e
  refine ⟨?zero, ?one, ?free, drawNext_drawn p e⟩
  case zero =>
    rintro rfl
    exact ⟨drawResult_zero e, drawNext_answers_of_forced (by simp [drawIsFree]) e⟩
  case one =>
    rintro rfl
    exact ⟨drawResult_one e, drawNext_answers_of_forced (by simp [drawIsFree]) e⟩
  case free =>
    intro a rest h0 h1 he
    refine ⟨drawResult_of_answer h0 h1 he, ?_⟩
    rw [drawNext_answers_of_free (by simp [drawIsFree, h0, h1]), he, List.tail_cons]

/-! ### The strategy each CHANNEL_MODE names (R140, R148) -/

theorem propagate_ge {c : Cfg} (hc : c.modeCode = 1) (w : Wire) (ch : ChState) (e : Entropy) :
    propagate c w ch e = ge c w ch e := by
  simp [propagate, channelMode, hc]

theorem propagate_bsc {c : Cfg} (hc : c.modeCode = 2) (w : Wire) (ch : ChState) (e : Entropy) :
    propagate c w ch e = bsc c.bscP w ch e := by
  simp [propagate, channelMode, hc]

theorem propagate_lossGe {c : Cfg} (hc : c.modeCode = 3) (w : Wire) (ch : ChState) (e : Entropy) :
    propagate c w ch e = loss c.probLoss w ch e (geBytes c) := by
  simp [propagate, channelMode, hc]

theorem propagate_lossBsc {c : Cfg} (hc : c.modeCode = 4) (w : Wire) (ch : ChState) (e : Entropy) :
    propagate c w ch e = loss c.probLoss w ch e (bscBytes c.bscP) := by
  simp [propagate, channelMode, hc]

/-- Settles O25: the crossing is `Propagate` from the block's state, which each mode makes its own strategy. -/
theorem propagateAppliesTheMode : Obligations.PropagateAppliesTheMode := fun w s hr =>
  ⟨crossing w s, exec_running hr (.propagate w), fun h => propagate_ideal h .., fun h => propagate_ge h ..,
    fun h => propagate_bsc h .., fun h => propagate_lossGe h .., fun h => propagate_lossBsc h ..⟩

/-- Settles O26: `Bsc` keeps the channel state, so the crossing writes the entropy port only. -/
theorem propagateBscKeepsChState : Obligations.PropagateBscKeepsChState := by
  intro w s hr
  rw [exec_running hr, effect, afterCrossing, bsc_chState, respond]

/-! ### Lengths (R151) -/

theorem geBytes_keepsLength {c : Cfg} {a b : Bytes} {ch : ChState} {e : Entropy}
    (h : (geBytes c a ch e).wire = some b) : a.length = b.length := by
  obtain rfl : _ = b := Option.some.inj h
  exact (geBits_length c (bitVisits a) a ch e).symm

theorem bscBytes_keepsLength {p : Prob} {a b : Bytes} {ch : ChState} {e : Entropy}
    (h : (bscBytes p a ch e).wire = some b) : a.length = b.length := by
  obtain rfl : _ = b := Option.some.inj h
  exact (bscBits_length p (bitVisits a) a e).symm

/-- What comes out behind the empty-input rule went in, and the strategy ran on it. -/
theorem onArrived_keepsLength {w : Wire} {ch : ChState} {e : Entropy} {run : Bytes → Crossing} {b : Bytes}
    (hrun : ∀ a, (run a).wire = some b → a.length = b.length) (h : (onArrived w ch e run).wire = some b) :
    ∃ a, w = some a ∧ a.length = b.length := by
  rcases onArrived_cases w ch e run with ⟨-, hnone⟩ | ⟨a, -, hw, hsome⟩
  · rw [hnone] at h
    cases h
  · exact ⟨a, hw, hrun a (hsome ▸ h)⟩

theorem loss_keepsLength {p : Prob} {w : Wire} {ch : ChState} {e : Entropy}
    {inner : Bytes → ChState → Entropy → Crossing} {b : Bytes}
    (hinner : ∀ a e, (inner a ch e).wire = some b → a.length = b.length) (h : (loss p w ch e inner).wire = some b) :
    ∃ a, w = some a ∧ a.length = b.length := by
  refine onArrived_keepsLength (fun a ha => ?_) h
  split at ha
  · cases ha
  · exact hinner a _ ha

/-- Settles O28: both bit loops keep the length, the loss decorator answers what its inner strategy does, and IDEAL
answers its input. -/
theorem crossingKeepsLength : Obligations.CrossingKeepsLength := by
  intro c w ch e b h
  unfold propagate at h
  match channelMode c, h with
  | some .ideal, h | none, h => exact ⟨b, h, rfl⟩
  | some .ge, h => exact onArrived_keepsLength (fun _ => geBytes_keepsLength) h
  | some .bsc, h => exact onArrived_keepsLength (fun _ => bscBytes_keepsLength) h
  | some .lossGe, h => exact loss_keepsLength (fun _ _ => geBytes_keepsLength) h
  | some .lossBsc, h => exact loss_keepsLength (fun _ _ => bscBytes_keepsLength) h

/-! ### The draws taken (R149) -/

theorem geBytes_drawn_length (c : Cfg) (b : Bytes) (ch : ChState) (e : Entropy) :
    (geBytes c b ch e).entropy.drawn.length = e.drawn.length + 16 * b.length := by
  rw [geBytes, geBits_drawn_length, bitVisits_length]
  omega

theorem bscBytes_drawn_length (p : Prob) (b : Bytes) (ch : ChState) (e : Entropy) :
    (bscBytes p b ch e).entropy.drawn.length = e.drawn.length + 8 * b.length := by
  rw [bscBytes, bscBits_drawn_length, bitVisits_length]

/-- The loss draw comes before the inner strategy's `n` draws, which a lost frame never takes. -/
theorem loss_drawn_length {b : Bytes} (hb : b ≠ []) (p : Prob) (ch : ChState) (e : Entropy)
    {inner : Bytes → ChState → Entropy → Crossing} {n : Nat}
    (hinner : ∀ e, (inner b ch e).entropy.drawn.length = e.drawn.length + n) :
    (loss p (some b) ch e inner).entropy.drawn.length =
      e.drawn.length + 1 + if drawResult p e = true then 0 else n := by
  split
  · next h => simp [loss_of_hit hb ch inner h]
  · next h => simp [loss_of_miss hb ch inner (Bool.eq_false_iff.mpr h), hinner]

/-- Settles O29: the draws of each strategy, and the two outcomes of the loss draw. -/
theorem crossingDrawCounts : Obligations.CrossingDrawCounts := by
  intro c b ch e hb
  refine ⟨?ideal, ?ge, ?bsc, ?lossGe, ?lossBsc, ?lost, ?passedGe, ?passedBsc⟩
  case ideal =>
    intro hc
    rw [propagate_ideal hc]
  case ge =>
    intro hc
    rw [propagate_ge hc, ge_of_ne_nil hb, geBytes_drawn_length]
  case bsc =>
    intro hc
    rw [propagate_bsc hc, bsc_of_ne_nil hb, bscBytes_drawn_length]
  case lossGe =>
    intro hc
    rw [propagate_lossGe hc]
    exact loss_drawn_length hb _ ch e (geBytes_drawn_length c b ch)
  case lossBsc =>
    intro hc
    rw [propagate_lossBsc hc]
    exact loss_drawn_length hb _ ch e (bscBytes_drawn_length c.bscP b ch)
  case lost =>
    rintro (hc | hc) h
    · rw [propagate_lossGe hc, loss_of_hit hb ch _ h]
    · rw [propagate_lossBsc hc, loss_of_hit hb ch _ h]
  case passedGe =>
    intro hc h
    rw [propagate_lossGe hc, loss_of_miss hb ch _ h, ge_of_ne_nil hb]
  case passedBsc =>
    intro hc h
    rw [propagate_lossBsc hc, loss_of_miss hb ch _ h, bsc_of_ne_nil hb]

/-! ### GE without errors or transitions (R149) -/

theorem geBits_bytes_of_no_errors {c : Cfg} (hk : c.probK = 0) (hh : c.probH = 0) (ks : List Nat) (b : Bytes)
    (ch : ChState) (e : Entropy) : (geBits c ks b ch e).1 = b := by
  have noError : ∀ ch, errorProb c ch = 0
    | .good => hk
    | .bad => hh
  induction ks generalizing ch e with
  | nil => rfl
  | cons k ks ih => simp [geBits, noError, ih]

theorem geBits_chState_of_no_transitions {c : Cfg} (hp : c.probP = 0) (hr : c.probR = 0) (ks : List Nat) (b : Bytes)
    (ch : ChState) (e : Entropy) : (geBits c ks b ch e).2.1 = ch := by
  have noTransition : ∀ ch, transitionProb c ch = 0
    | .good => hp
    | .bad => hr
  induction ks generalizing b e with
  | nil => rfl
  | cons k ks ih => simp [geBits, geStep, noTransition, ih]

/-- Settles O30: a draw with label 0 is a miss, in every visit of the bit loop. -/
theorem geWithoutErrorsOrTransitions : Obligations.GeWithoutErrorsOrTransitions := by
  intro c b ch e hb
  rw [ge_of_ne_nil hb]
  exact ⟨fun hk hh => congrArg some (geBits_bytes_of_no_errors hk hh _ b ch e),
    fun hp hr => geBits_chState_of_no_transitions hp hr _ b ch e⟩

/-! ### The bits that flips invert (R142) -/

/-- `flip(b, k)` inverts bit `7 - (k mod 8)` of byte `k div 8` and no other. -/
theorem getLsbD_flipBit {b : Bytes} (k : Nat) {n : Nat} (hn : n < b.length) (j : Nat) :
    ((flipBit b k).getD n 0).getLsbD j = ((b.getD n 0).getLsbD j ^^ decide (n = k / 8 ∧ j = 7 - k % 8)) := by
  rw [List.getD_eq_getElem?_getD, List.getD_eq_getElem?_getD, flipBit_getElem?, List.getElem?_eq_getElem hn]
  by_cases hbyte : k / 8 = n
  · have hbit : (1#8 <<< (7 - k % 8)).getLsbD j = decide (j = 7 - k % 8) := by
      rw [← BitVec.twoPow_eq, BitVec.getLsbD_twoPow, decide_eq_true (by omega), Bool.true_and, decide_eq_decide]
      exact eq_comm
    simp [hbyte, hbit]
  · simp [hbyte, Ne.symm hbyte]

/-- Flips of distinct positions invert the bits at these positions once each. -/
theorem getLsbD_foldl_flipBit {ks : List Nat} (hks : ks.Nodup) {b : Bytes} {n j : Nat} (hn : n < b.length)
    (hj : j < 8) :
    ((ks.foldl flipBit b).getD n 0).getLsbD j = ((b.getD n 0).getLsbD j ^^ decide (8 * n + (7 - j) ∈ ks)) := by
  induction ks generalizing b with
  | nil => simp
  | cons k ks ih =>
    obtain ⟨hk, hks⟩ := List.nodup_cons.mp hks
    have hpos : (n = k / 8 ∧ j = 7 - k % 8) ↔ 8 * n + (7 - j) = k := by omega
    rw [List.foldl_cons, ih hks (by rwa [flipBit_length]), getLsbD_flipBit k hn]
    by_cases hkn : 8 * n + (7 - j) = k
    · simp [hpos, hkn, hk]
    · simp [hpos, hkn]

theorem foldl_flipBit_length (ks : List Nat) (b : Bytes) : (ks.foldl flipBit b).length = b.length := by
  induction ks generalizing b with
  | nil => rfl
  | cons k ks ih => rw [List.foldl_cons, ih, flipBit_length]

/-- Flipping every bit once inverts every byte. -/
theorem foldl_flipBit_bitVisits (b : Bytes) : (bitVisits b).foldl flipBit b = b.map (fun x => ~~~x) := by
  have hlen := foldl_flipBit_length (bitVisits b) b
  refine List.ext_getElem (by rw [hlen, List.length_map]) fun n hn hn' => BitVec.eq_of_getLsbD_eq fun j hj => ?_
  rw [List.length_map] at hn'
  have hvisited : 8 * n + (7 - j) ∈ bitVisits b := List.mem_range.mpr (by omega)
  have hbit := getLsbD_foldl_flipBit List.nodup_range hn' hj (ks := bitVisits b)
  rw [List.getD_eq_getElem _ _ hn, List.getD_eq_getElem _ _ hn', decide_eq_true hvisited, Bool.xor_true] at hbit
  rw [hbit, List.getElem_map, BitVec.getLsbD_not, decide_eq_true hj, Bool.true_and]

/-! ### The bit loop of `Bsc` (R146) -/

theorem bscBits_one (ks : List Nat) (b : Bytes) (e : Entropy) : (bscBits 1 ks b e).1 = ks.foldl flipBit b := by
  induction ks generalizing b e with
  | nil => rfl
  | cons k ks ih => simp [bscBits, ih]

theorem bscBits_zero (ks : List Nat) (b : Bytes) (e : Entropy) : (bscBits 0 ks b e).1 = b := by
  induction ks generalizing e with
  | nil => rfl
  | cons k ks ih => simp [bscBits, ih]

/-- Settles O31: the loop visit by visit; with label 1 every visit flips its bit and with label 0 none does. -/
theorem bscOfOneInvertsEveryBit : Obligations.BscOfOneInvertsEveryBit := by
  refine ⟨?visits, fun _ _ _ => rfl, ?visit, ?ends⟩
  case visits =>
    intro p b ch e hb
    rw [bsc_of_ne_nil hb, bscBytes, bitVisits]
  case visit =>
    intro p k ks b e
    constructor
    · intro hit
      rw [bscBits, if_pos hit]
    · intro miss
      rw [bscBits, if_neg (by simp [miss])]
  case ends =>
    intro b ch e hb
    rw [bsc_of_ne_nil hb, bsc_of_ne_nil hb]
    constructor
    · rw [bscBytes, bscBits_one, foldl_flipBit_bitVisits]
    · rw [bscBytes, bscBits_zero]

/-! ### The bit loop of `Ge` (R144, R145) -/

theorem geStep_of_hit {c : Cfg} {ch : ChState} {e : Entropy} (h : drawResult (transitionProb c ch) e = true) :
    geStep c ch e = otherState ch := if_pos h

theorem geStep_of_miss {c : Cfg} {ch : ChState} {e : Entropy} (h : drawResult (transitionProb c ch) e = false) :
    geStep c ch e = ch := if_neg (by simp [h])

/-- Settles O32: one visit is the transition draw, then the error draw in the state `geStep` leaves; the flip is
`getLsbD_flipBit`. -/
theorem geBitTransitionsFirst : Obligations.GeBitTransitionsFirst := by
  refine ⟨?visits, fun _ _ _ _ => rfl, fun c k ks b ch e => ⟨?visit, fun _ j hn _ => getLsbD_flipBit k hn j⟩⟩
  case visits =>
    intro c b ch e hb
    exact ⟨_, rfl, ge_of_ne_nil hb c ch e⟩
  case visit =>
    refine ⟨geStep c ch e, drawNext (transitionProb c ch) e, _, _, ?goodHit, ?goodMiss, ?badHit, ?badMiss, ?goodDraw,
      ?badDraw, ?goodError, ?badError, rfl⟩
    case goodHit | badHit =>
      rintro rfl h
      exact geStep_of_hit h
    case goodMiss | badMiss =>
      rintro rfl h
      exact geStep_of_miss h
    case goodDraw | badDraw =>
      rintro rfl
      rfl
    case goodError | badError =>
      intro h
      rw [h]
      exact ⟨rfl, rfl⟩

end Sys2Proof.Machine
end

section
/-! PROOFS. The Sender (42_sender.md): which answer each of its commands gives, one lemma per answer, and the statements
read off them. -/

namespace Sys2Proof.Machine

/-! ### SUBMIT (R170-R172) -/

theorem submit_of_payload_too_long {p : Bytes} {s : State} (hp : s.cfg.maxPayload.toNat < p.length) :
    submit p s = respond .payloadTooLong [] s := if_pos hp

/-- `next_seq` is in the window while the window has a place left (R36). -/
theorem inWindow_nextSeq (s : State) : inWindow s s.nextSeq = decide (outstanding s < s.cfg.windowSize.toNat) := rfl

theorem submit_of_window_full {p : Bytes} {s : State} (hp : p.length ≤ s.cfg.maxPayload.toNat)
    (hw : s.cfg.windowSize.toNat ≤ outstanding s) : submit p s = respond .windowFull [] s := by
  simp [submit, hp.not_gt, inWindow_nextSeq, hw.not_gt]

theorem submit_of_admissible {p : Bytes} {s : State} (hp : p.length ≤ s.cfg.maxPayload.toNat)
    (hw : outstanding s < s.cfg.windowSize.toNat) : submit p s = submitAccepted p s := by
  simp [submit, hp.not_gt, inWindow_nextSeq, hw]

/-- Settles O34: the length is checked first, then the place in the window; each rejection only answers. -/
theorem submitRejectsInOrder : Obligations.SubmitRejectsInOrder := by
  intro p s hr
  rw [exec_running hr, effect]
  refine ⟨fun hp => ?_, fun hp hw => ?_⟩
  · rw [submit_of_payload_too_long hp]
    rfl
  · rw [submit_of_window_full hp hw]
    rfl

/-- Settles O33: the next state is `submitAccepted_eq`'s, whose buffer is the old one with one slot written. -/
theorem submitAdmitsIntoTheWindow : Obligations.SubmitAdmitsIntoTheWindow := by
  intro p s hr _ hp hw
  have hM := (cfgLegal_bounds hr.2).2.1
  have hexec := exec_running hr (.submit p)
  rw [effect, submit_of_admissible hp hw, submitAccepted_eq p s _ rfl] at hexec
  refine ⟨_, _, _, hexec, rfl, rfl, ?slot, ?others, ?number, rfl, ?start, ?keep, rfl, rfl, rfl, rfl⟩
  case slot => exact bufRead_bufWrite_same _ _ _
  case others => exact fun q hq => bufRead_bufWrite_other hq _ _
  case number => exact seqNext_toNat (maxSeq_pos _) hM _
  case start =>
    intro hempty
    simp [windowEmpty, hempty]
  case keep =>
    intro hne
    simp [windowEmpty, hne]

/-! ### ON_ACK (R173-R177) -/

theorem ackReceived_of_out_of_range {a : Byte} {s : State} (ha : maxSeq s.cfg ≤ a.toNat) :
    ackReceived a s = respond .ackOutOfRange [] s := if_pos ha

theorem ackReceived_of_duplicate {a : Byte} {s : State} (ha : a.toNat < maxSeq s.cfg)
    (hd : seqDist (maxSeq s.cfg) a s.base = 0) : ackReceived a s = respond .ackDuplicate [] s := by
  simp only [ackReceived]
  rw [if_neg (by omega), if_pos hd]

theorem ackReceived_of_stale {a : Byte} {s : State} (ha : a.toNat < maxSeq s.cfg)
    (hd : maxSeq s.cfg / 2 < seqDist (maxSeq s.cfg) a s.base) : ackReceived a s = respond .ackStale [] s := by
  simp only [ackReceived]
  rw [if_neg (by omega), if_neg (by omega), if_pos hd]

theorem ackReceived_of_beyond_next {a : Byte} {s : State} (ha : a.toNat < maxSeq s.cfg)
    (hout : outstanding s < seqDist (maxSeq s.cfg) a s.base)
    (hhalf : seqDist (maxSeq s.cfg) a s.base ≤ maxSeq s.cfg / 2) :
    ackReceived a s = raiseFault fAckBeyondNext (advance a s) := by
  simp only [ackReceived]
  rw [if_neg (by omega), if_neg (by omega), if_neg (by omega), if_pos hout]

theorem ackReceived_of_in_flight {a : Byte} {s : State} (ha : a.toNat < maxSeq s.cfg)
    (hpos : 0 < seqDist (maxSeq s.cfg) a s.base) (hhalf : seqDist (maxSeq s.cfg) a s.base ≤ maxSeq s.cfg / 2)
    (hle : seqDist (maxSeq s.cfg) a s.base ≤ outstanding s) :
    ackReceived a s = respond .ok [.byte (BitVec.ofNat 8 (seqDist (maxSeq s.cfg) a s.base))] (advance a s) := by
  simp only [ackReceived]
  rw [if_neg (by omega), if_neg (by omega), if_neg (by omega), if_neg (by omega)]

/-- A number is as far from `base` as all the frames in flight iff it is `next_seq` (R36). -/
theorem seqDist_eq_outstanding {a : Byte} {s : State} (hs : s.seqsInRange) (ha : a.toNat < maxSeq s.cfg) :
    seqDist (maxSeq s.cfg) a s.base = outstanding s ↔ a = s.nextSeq := by
  obtain ⟨hb, hn, -⟩ := hs
  exact seqDist_inj ha hn hb

/-- Settles O35: the three classes of numbers that ON_ACK rejects; each rejection only answers. -/
theorem onAckRejectsWithoutChange : Obligations.OnAckRejectsWithoutChange := by
  intro a s hr
  rw [exec_running hr, effect]
  refine ⟨fun ha => ?_, fun ha hd => ?_, fun ha hd => ?_⟩
  · rw [ackReceived_of_out_of_range ha]
    rfl
  · rw [ackReceived_of_duplicate ha hd]
    rfl
  · rw [ackReceived_of_stale ha hd]
    rfl

/-- Settles O36: `Advance` empties the slots before the number (`ackedBuf_spec`), and the window is then empty iff the
number is `next_seq`. -/
theorem onAckAdvancesTheWindow : Obligations.OnAckAdvancesTheWindow := by
  intro a s hr hs hwf ha hpos hhalf hle
  have hexec := exec_running hr (.onAck a)
  rw [effect, ackReceived_of_in_flight ha hpos hhalf hle, advance_running hr ha] at hexec
  refine ⟨_, hexec, rfl, (ackedBuf_spec hr hs.1 hwf ha).2.1, fun hall => ?_, fun hsome => ?_, rfl, rfl⟩
  · have hlast : a = s.nextSeq := (seqDist_eq_outstanding hs ha).mp hall
    simp [hlast]
  · have hmore : a ≠ s.nextSeq := mt (seqDist_eq_outstanding hs ha).mpr hsome.ne
    simp [hmore]

/-- Settles O37: the same advance; the number is not `next_seq`, so the timer restarts, and bit 2 alone is set. -/
theorem onAckBeyondNextHalts : Obligations.OnAckBeyondNextHalts := by
  intro a s hr hs hwf ha hout hhalf
  have hbeyond : a ≠ s.nextSeq := mt (seqDist_eq_outstanding hs ha).mpr hout.ne'
  have hexec := exec_running hr (.onAck a)
  rw [effect, ackReceived_of_beyond_next ha hout hhalf, advance_running hr ha] at hexec
  refine ⟨_, hexec, rfl, ?bit, ?runs, ?restarts, (ackedBuf_spec hr hs.1 hwf ha).2.1, rfl, rfl⟩
  case bit =>
    simp only [raiseFault_fault, hr.1]
    rfl
  case runs => simp [hbeyond]
  case restarts => simp [hbeyond]

/-! ### ACK_IN (R178) -/

theorem ackArrived_of_corrupt {b : Bytes} (hb : b ≠ []) {cls : ErrClass} {d : Byte}
    (h : decodeFrame b = .corrupt cls d) (s : State) : ackArrived (some b) s = respond (corruptStatus cls) [] s := by
  cases b with
  | nil => exact absurd rfl hb
  | cons x xs => simp only [ackArrived, h]

theorem ackArrived_of_valid {b : Bytes} {f : Frame} (h : decodeFrame b = .valid f) (s : State) :
    ackArrived (some b) s = if f.kind = .ack then ackReceived f.seqNum s else respond .notAck [] s := by
  cases b with
  | nil => cases h
  | cons x xs => simp only [ackArrived, h]

/-- Settles O38: what is absent, empty, corrupt in either class or a DATA frame is only answered. -/
theorem ackInDropsWhatIsNoAck : Obligations.AckInDropsWhatIsNoAck := by
  intro w s hr
  rw [exec_running hr, effect]
  refine ⟨?nothing, ?structural, ?integrity, ?data⟩
  case nothing =>
    rintro (rfl | rfl)
    · rfl
    · rfl
  case structural =>
    rintro b d rfl hb h
    rw [ackArrived_of_corrupt hb h]
    rfl
  case integrity =>
    rintro b d rfl h
    have hb : b ≠ [] := by
      rintro rfl
      cases h
    rw [ackArrived_of_corrupt hb h]
    rfl
  case data =>
    rintro b f rfl h hk
    rw [ackArrived_of_valid h, hk]
    rfl

/-- Settles O39: an encoded ACK decodes to itself, so ACK_IN hands its number to ON_ACK. -/
theorem ackInOfAnAckIsOnAck : Obligations.AckInOfAnAckIsOnAck := by
  intro q sid rid p s hr
  have hack : ackArrived (some (encodeFrame
      { kind := .ack, seqNum := q, payload := p, senderId := sid, receiverId := rid })) s = ackReceived q s :=
    (ackArrived_of_valid (decodeFrame_encodeFrame _) s).trans (if_pos rfl)
  refine ⟨ackReceived q s, ?_, exec_running hr _, fun _ _ hq hpos hhalf hle => ?_⟩
  · rw [exec_running hr, effect, hack]
  · rw [ackReceived_of_in_flight hq hpos hhalf hle, advance_running hr hq]
    exact ⟨rfl, rfl⟩

/-! ### IS_TIMEOUT (R180, R185) -/

/-- "Exceeds" is strict, and no subtraction is cut off: the timer has run out once `now` is past the deadline. -/
theorem timerExpired_iff_deadline_lt {s : State} :
    timerExpired s = true ↔ s.timerRunning = true ∧ s.timerStart + s.cfg.timeout < s.now := by
  rw [timerExpired_iff, Nat.lt_sub_iff_add_lt']

/-- Settles O40: it fires iff the running timer is past its deadline. -/
theorem isTimeoutFiresAndDisarms : Obligations.IsTimeoutFiresAndDisarms := by
  intro s hr
  rw [exec_running hr, effect]
  refine ⟨fun hrun hlate => ?fires, fun hnot => ?waits⟩
  case fires =>
    have hx : timerExpired s = true := timerExpired_iff_deadline_lt.mpr ⟨hrun, hlate⟩
    rw [checkTimeout, if_pos hx]
    rfl
  case waits =>
    have hx : ¬ timerExpired s = true := by
      rw [timerExpired_iff_deadline_lt]
      rintro ⟨hrun, hlate⟩
      rcases hnot with hstopped | hearly
      · simp [hstopped] at hrun
      · omega
    rw [checkTimeout, if_neg hx]
    rfl

/-! ### RETRANSMIT (R188) -/

/-- RETRANSMIT on a running block, register by register: the frames of the window cross the channel one after the
other. -/
theorem resendWindow_running {s : State} (hr : s.running) (hs : s.seqsInRange)
    (r : List Wire × ChState × Entropy) (h : r = crossAll s.cfg (windowFrames s) s.chState s.entropy) :
    resendWindow s = { s with
      retxCount := s.retxCount + (windowFrames s).length
      timerRunning := !windowEmpty s || s.timerRunning
      timerStart := if windowEmpty s then s.timerStart else s.now
      responses := s.responses ++ [{ status := .ok, outputs := [.wires r.1] }]
      chState := r.2.1, entropy := r.2.2 } := by
  subst h
  obtain ⟨hb, hn, -⟩ := hs
  have hloop := resendLoop_spec (maxSeq s.cfg) s.base s (cfgLegal_bounds hr.2).2.1 hn hb
    (seqDist_lt (maxSeq_pos _) _ _).le (windowFrames s) rfl
  simp only [resendWindow, hloop]
  cases windowEmpty s <;> rfl

/-- Settles O41: the next state is `resendWindow_running`'s; the timer is as it was iff the window is empty. -/
theorem retransmitSendsTheWindow : Obligations.RetransmitSendsTheWindow := by
  intro s hr hs
  have hexec := exec_running hr .retransmit
  rw [effect, resendWindow_running hr hs _ rfl] at hexec
  refine ⟨_, _, hexec, rfl, rfl, rfl, rfl, rfl, fun hempty => ?_, fun hne => ?_, rfl⟩
  · simp [windowEmpty, hempty]
  · simp [windowEmpty, hne]

end Sys2Proof.Machine
end

section
/-! PROOFS. The Receiver (43_receiver.md): what ON_FRAME answers, one lemma per answer, and the statements read off
them; then the reference driver over an ideal link (R236, R237, R290), one lemma per command it issues. -/

namespace Sys2Proof.Machine

/-! ### ON_FRAME (R210-R212) -/

/-- The log is full when it holds LOG_CAPACITY entries (R210). -/
theorem logFull_iff {s : State} : logFull s = true ↔ s.cfg.logCapacity = some s.log.length := beq_iff_eq

theorem frameArrived_of_corrupt {b : Bytes} (hb : b ≠ []) {cls : ErrClass} {d : Byte}
    (h : decodeFrame b = .corrupt cls d) (s : State) :
    frameArrived (some b) s = answerAck (corruptStatus cls) s := by
  cases b with
  | nil => exact absurd rfl hb
  | cons x xs => simp only [frameArrived, h]

theorem frameArrived_of_valid {b : Bytes} {f : Frame} (h : decodeFrame b = .valid f) (s : State) :
    frameArrived (some b) s = frameReceived f s := by
  cases b with
  | nil => cases h
  | cons x xs => simp only [frameArrived, h]

theorem frameReceived_of_out_of_order {f : Frame} {s : State} (h : f.kind = .ack ∨ f.seqNum ≠ s.expected) :
    frameReceived f s = answerAck .outOfOrder s := by
  refine if_neg ?_
  rintro ⟨hdata, hnext⟩
  rcases h with hack | hne
  · simp [hack] at hdata
  · exact hne hnext

theorem frameReceived_of_in_order {f : Frame} {s : State} (hk : f.kind = .data) (hq : f.seqNum = s.expected)
    (hroom : s.cfg.logCapacity ≠ some s.log.length) :
    frameReceived f s = answerAck .ok (acceptPayload f.payload s) := by
  rw [frameReceived, if_pos ⟨hk, hq⟩, if_neg (mt logFull_iff.mp hroom)]

theorem frameReceived_of_log_full {f : Frame} {s : State} (hk : f.kind = .data) (hq : f.seqNum = s.expected)
    (hfull : s.cfg.logCapacity = some s.log.length) : frameReceived f s = raiseFault fLogFull s := by
  rw [frameReceived, if_pos ⟨hk, hq⟩, if_pos (logFull_iff.mpr hfull)]

/-- Settles O45: the frame is accepted, and the ACK crosses the channel after `expected` has advanced. -/
theorem onFrameAcceptsInOrder : Obligations.OnFrameAcceptsInOrder := by
  intro b f s hr hb hk hq hroom
  have hexec := exec_running hr (.onFrame (some b))
  rw [effect, frameArrived_of_valid hb, frameReceived_of_in_order hk hq hroom] at hexec
  have hM := (cfgLegal_bounds hr.2).2.1
  exact ⟨_, _, hexec, rfl, seqNext_toNat (maxSeq_pos _) hM _, rfl, rfl, rfl, rfl, rfl⟩

/-- Settles O46: whatever is discarded, the one answer is the ACK for `expected`. -/
theorem onFrameDiscardsAndReAcks : Obligations.OnFrameDiscardsAndReAcks := by
  intro b s st hr hb hcase
  have hack : frameArrived (some b) s = answerAck st s := by
    rcases hcase with ⟨d, h, rfl⟩ | ⟨d, h, rfl⟩ | ⟨f, h, hf, rfl⟩
    · exact frameArrived_of_corrupt hb h s
    · exact frameArrived_of_corrupt hb h s
    · exact (frameArrived_of_valid h s).trans (frameReceived_of_out_of_order hf)
  refine ⟨_, rfl, ?_⟩
  rw [exec_running hr, effect, hack]
  rfl

/-- Settles O47: ABSENT and EMPTY are answered alike, before anything is decoded or acknowledged. -/
theorem onFrameOfNothingDoesNothing : Obligations.OnFrameOfNothingDoesNothing := by
  intro w s hr hw
  rw [exec_running hr]
  rcases hw with rfl | rfl
  · rfl
  · rfl

/-- Settles O48: the log is checked before the payload is appended, and no other fault bit was set. -/
theorem onFrameIntoAFullLogHalts : Obligations.OnFrameIntoAFullLogHalts := by
  intro b f s hr hb hk hq hfull
  have hbit : s.fault ||| fLogFull = 0x08 := by
    rw [hr.1]
    rfl
  rw [exec_running hr, effect, frameArrived_of_valid hb, frameReceived_of_log_full hk hq hfull, ← hbit]
  rfl

/-! ### The driver's commands, one by one (R236) -/

/-- Issuing to a running block gives the response that the command appends. -/
theorem issue_running {i : Instr} {s : State} (hr : s.running) {r : Response}
    (h : (effect i s).responses = s.responses ++ [r]) : issue i s = some (r, effect i s) := by
  simp [issue, exec_running hr, h]

/-! The fields of an accepted SUBMIT that later commands read. -/

section SubmitAccepted

variable (p : Bytes) (s : State)

@[simp] theorem submitAccepted_base : (submitAccepted p s).base = s.base := by rw [submitAccepted_eq p s _ rfl]
@[simp] theorem submitAccepted_nextSeq : (submitAccepted p s).nextSeq = seqNext (maxSeq s.cfg) s.nextSeq := by
  rw [submitAccepted_eq p s _ rfl]
@[simp] theorem submitAccepted_retxCount : (submitAccepted p s).retxCount = s.retxCount := by
  rw [submitAccepted_eq p s _ rfl]
@[simp] theorem submitAccepted_expected : (submitAccepted p s).expected = s.expected := by
  rw [submitAccepted_eq p s _ rfl]
@[simp] theorem submitAccepted_log : (submitAccepted p s).log = s.log := by rw [submitAccepted_eq p s _ rfl]
@[simp] theorem submitAccepted_fault : (submitAccepted p s).fault = s.fault := by rw [submitAccepted_eq p s _ rfl]

end SubmitAccepted

/-- SUBMIT of an admissible payload over an ideal channel answers with the frame as it was built (R143, R170). -/
theorem issue_submit {p : Bytes} {s : State} (hr : s.running) (hideal : s.cfg.modeCode = 0)
    (hp : p.length ≤ s.cfg.maxPayload.toNat) (hw : outstanding s < s.cfg.windowSize.toNat) :
    issue (.submit p) s = some ({ status := .ok, outputs :=
      [.byte s.nextSeq, .wire (some (encodeFrame (makeData s.cfg s.nextSeq p)))] }, submitAccepted p s) := by
  have heff : effect (.submit p) s = submitAccepted p s := submit_of_admissible hp hw
  rw [← heff]
  refine issue_running hr ?_
  rw [heff, submitAccepted_eq p s _ rfl, propagate_ideal hideal]

/-- Over an ideal channel the ACK reaches the far side as it was built (R143, R212). -/
theorem answerAck_ideal {s : State} (hideal : s.cfg.modeCode = 0) (st : Status) :
    answerAck st s = respond st [.wire (some (encodeFrame (makeAck s.cfg s.expected)))] s := by
  simp only [answerAck, crossing, propagate_ideal hideal]
  rfl

/-- ON_FRAME of the frame numbered `expected` answers with the ACK for the next number (R210, R211). -/
theorem issue_onFrame {q : Byte} {p : Bytes} {s : State} (hr : s.running) (hideal : s.cfg.modeCode = 0)
    (hq : q = s.expected) (hroom : s.cfg.logCapacity ≠ some s.log.length) :
    issue (.onFrame (some (encodeFrame (makeData s.cfg q p)))) s =
      some ({ status := .ok, outputs :=
        [.wire (some (encodeFrame (makeAck s.cfg (seqNext (maxSeq s.cfg) s.expected))))] },
        answerAck .ok (acceptPayload p s)) := by
  have heff : effect (.onFrame (some (encodeFrame (makeData s.cfg q p)))) s = answerAck .ok (acceptPayload p s) :=
    (frameArrived_of_valid (decodeFrame_encodeFrame _) s).trans (frameReceived_of_in_order rfl hq hroom)
  rw [← heff]
  refine issue_running hr ?_
  rw [heff, answerAck_ideal (s := acceptPayload p s) hideal]
  rfl

/-- The ACK of everything in flight empties the window. -/
theorem issue_ackIn_nextSeq {c : Cfg} {s : State} (hr : s.running) (hs : s.seqsInRange) (hpos : 0 < outstanding s)
    (hhalf : outstanding s ≤ maxSeq s.cfg / 2) :
    ∃ r t, issue (.ackIn (some (encodeFrame (makeAck c s.nextSeq)))) s = some (r, t) ∧
      t = { s with
        base := s.nextSeq, buf := ackedBuf s.nextSeq s, timerRunning := false
        responses := s.responses ++ [r] } := by
  have heff : effect (.ackIn (some (encodeFrame (makeAck c s.nextSeq)))) s =
      respond .ok [.byte (BitVec.ofNat 8 (outstanding s))] (advance s.nextSeq s) :=
    ((ackArrived_of_valid (decodeFrame_encodeFrame _) s).trans (if_pos rfl)).trans
      (ackReceived_of_in_flight hs.2.1 hpos hhalf le_rfl)
  refine ⟨_, _, issue_running hr (by rw [heff, respond_responses, advance_responses]), ?_⟩
  rw [heff, advance_running hr hs.2.1]
  simp [respond]

theorem issue_isTimeout_of_stopped {s : State} (hr : s.running) (ht : s.timerRunning = false) :
    issue .isTimeout s = some ({ status := .ok, outputs := [.flag false] }, respond .ok [.flag false] s) := by
  have heff : effect .isTimeout s = respond .ok [.flag false] s :=
    if_neg (by simp [timerExpired, ht])
  rw [← heff]
  refine issue_running hr ?_
  rw [heff, respond_responses]

theorem issue_tick {s : State} (hr : s.running) (d : BitVec 32) :
    issue (.tick d) s = some ({ status := .ok, outputs := [] }, effect (.tick d) s) :=
  issue_running hr rfl

/-! ### One iteration over an ideal link (R236) -/

/-- Nothing is under way on a running block's ideal link: the window is empty, its cursors and the Receiver's agree, and
the timer is stopped. -/
structure LinkAtRest (s : State) : Prop where
  running : s.running
  ideal : s.cfg.modeCode = 0
  inRange : s.nextSeq.toNat < maxSeq s.cfg
  windowEmpty : s.base = s.nextSeq
  cursorsAgree : s.expected = s.nextSeq
  timerStopped : s.timerRunning = false

/-- `t` is a link at rest that has delivered `ps` since `s`, without a retransmission. -/
structure Delivered (ps : List Bytes) (s t : State) : Prop where
  atRest : LinkAtRest t
  cfg : t.cfg = s.cfg
  log : t.log = s.log ++ ps
  retxCount : t.retxCount = s.retxCount

/-- XFER_DATA of the one frame in flight: it is accepted, and its ACK empties the window. -/
theorem xferData_of_one_in_flight {p : Bytes} {s : State} (hr : s.running) (hideal : s.cfg.modeCode = 0)
    (hb : s.base.toNat < maxSeq s.cfg) (hn : s.nextSeq = seqNext (maxSeq s.cfg) s.base) (he : s.expected = s.base)
    (hroom : s.cfg.logCapacity ≠ some s.log.length) :
    ∃ t, xferData (some (encodeFrame (makeData s.cfg s.base p))) s = some t ∧ Delivered [p] s t := by
  obtain ⟨hM2, hM, -, -, -⟩ := cfgLegal_bounds hr.2
  have hnext : s.nextSeq.toNat < maxSeq s.cfg := hn ▸ seqNext_lt (by omega) hM _
  have hagree : seqNext (maxSeq s.cfg) s.expected = s.nextSeq := by rw [he, hn]
  have hone : outstanding s = 1 := by
    have hd := seqDist_seqNext_upper hM hb hb (by rw [seqDist_self]; omega)
    rwa [seqDist_self, ← hn] at hd
  have hpos : 0 < outstanding s := by omega
  have hhalf : outstanding s ≤ maxSeq s.cfg / 2 := by omega
  have hframe := issue_onFrame (p := p) hr hideal he.symm hroom
  rw [answerAck_ideal (s := acceptPayload p s) hideal, acceptPayload_expected, hagree] at hframe
  obtain ⟨r, t, hack, ht⟩ := issue_ackIn_nextSeq (c := s.cfg)
    (s := respond .ok [.wire (some (encodeFrame (makeAck s.cfg s.nextSeq)))] (acceptPayload p s)) hr
    ⟨hb, hnext, by simpa [hagree] using hnext⟩ hpos hhalf
  refine ⟨t, ?_, ?_⟩
  · simp only [xferData, hframe]
    exact congrArg (Option.map Prod.snd) hack
  · subst ht
    exact ⟨⟨hr, hideal, hnext, rfl, hagree, rfl⟩, rfl, rfl, rfl⟩

/-- SEND over an ideal link at rest: the window has a place, and the admitted frame is then the one in flight. -/
theorem send_atRest {p : Bytes} {s : State} (h : LinkAtRest s) (hp : p.length ≤ s.cfg.maxPayload.toNat)
    (hroom : s.cfg.logCapacity ≠ some s.log.length) : ∃ t, send p s = some (true, t) ∧ Delivered [p] s t := by
  obtain ⟨hr, hideal, hrange, hempty, hagree, -⟩ := h
  obtain ⟨-, -, hw, -, -⟩ := cfgLegal_bounds hr.2
  have hnone : outstanding s = 0 := by rw [outstanding, hempty, seqDist_self]
  have hsubmit := issue_submit hr hideal hp (by omega)
  obtain ⟨t, hxfer, hrest, hcfg, hlog, hretx⟩ := xferData_of_one_in_flight (p := p) (s := submitAccepted p s)
    (by simpa [State.running] using hr) (by simpa using hideal) (by simpa [hempty] using hrange) (by simp [hempty])
    (by simp [hagree, hempty]) (by simpa using hroom)
  simp only [submitAccepted_cfg, submitAccepted_base, submitAccepted_log, submitAccepted_retxCount, hempty]
    at hxfer hcfg hlog hretx
  exact ⟨t, by simp [send, hsubmit, wireOutput, hxfer], hrest, hcfg, hlog, hretx⟩

/-- An iteration over an ideal link at rest delivers its payload: after SEND the timer is stopped, so IS_TIMEOUT asks
for no retransmission, and TICK moves the clock only. -/
theorem driverIteration_atRest {payloads : List Bytes} {i : Nat} {p : Bytes} {s : State} (h : LinkAtRest s)
    (hi : payloads[i]? = some p) (hp : p.length ≤ s.cfg.maxPayload.toNat)
    (hroom : s.cfg.logCapacity ≠ some s.log.length) (delta : BitVec 32) :
    ∃ t, driverIteration payloads delta i s = some (i + 1, t) ∧ Delivered [p] s t := by
  obtain ⟨t, hsend, hrest, hcfg, hlog, hretx⟩ := send_atRest h hp hroom
  obtain ⟨hr, hideal, hrange, hempty, hagree, hstopped⟩ := hrest
  have hsubmit : driverSubmit payloads i s = some (i + 1, t) := by simp [driverSubmit, hi, hsend]
  have htimeout : driverTimeout t = some (respond .ok [.flag false] t) := by
    simp [driverTimeout, issue_isTimeout_of_stopped hr hstopped]
  have htick := issue_tick (s := respond .ok [.flag false] t) hr delta
  exact ⟨effect (.tick delta) (respond .ok [.flag false] t),
    by simp only [driverIteration, hsubmit, htimeout, htick, Option.map_some],
    ⟨hr, hideal, hrange, hempty, hagree, hstopped⟩, hcfg, hlog, hretx⟩

/-! ### The run over an ideal link (R213, R237, R290) -/

theorem Delivered.trans {ps qs : List Bytes} {s t u : State} (h : Delivered ps s t) (h' : Delivered qs t u) :
    Delivered (ps ++ qs) s u :=
  ⟨h'.atRest, h'.cfg.trans h.cfg, by rw [h'.log, h.log, List.append_assoc], h'.retxCount.trans h.retxCount⟩

/-- A run from a link at rest whose log holds the payloads submitted so far delivers the rest of them, one an
iteration. -/
theorem driverRun_atRest (rest : List Bytes) {deltas : List (BitVec 32)} {s : State} (h : LinkAtRest s)
    (hroom : ∀ n, s.cfg.logCapacity = some n → (s.log ++ rest).length ≤ n)
    (hfit : ∀ p ∈ rest, p.length ≤ s.cfg.maxPayload.toNat) (hlen : deltas.length = rest.length) :
    ∃ t, driverRun (s.log ++ rest) deltas s.log.length s = some (.ended, (s.log ++ rest).length, t) ∧
      Delivered rest s t := by
  induction rest generalizing deltas s with
  | nil =>
    obtain rfl := List.length_eq_zero_iff.mp hlen
    have hended : runVerdict s.log.length s = .ended := runVerdict_ended.mpr ⟨rfl, h.running.1⟩
    rw [List.append_nil]
    exact ⟨s, by rw [driverRun, hended], h, rfl, (List.append_nil _).symm, rfl⟩
  | cons p rest ih =>
    obtain ⟨delta, deltas, rfl⟩ := List.exists_cons_of_length_eq_add_one hlen
    have hgoes : runVerdict (s.log ++ p :: rest).length s = .goesOn :=
      runVerdict_goesOn.mpr ⟨by simp, h.running.1⟩
    have hplace : s.cfg.logCapacity ≠ some s.log.length := fun hc => by simpa using hroom _ hc
    have hnext : (s.log ++ p :: rest)[s.log.length]? = some p := by simp
    obtain ⟨hp, hfit⟩ := List.forall_mem_cons.mp hfit
    obtain ⟨t, hiter, ht⟩ := driverIteration_atRest h hnext hp hplace delta
    have hsplit : t.log ++ rest = s.log ++ p :: rest := by simp [ht.log]
    have hcount : t.log.length = s.log.length + 1 := by simp [ht.log]
    obtain ⟨u, hrun, hu⟩ := ih ht.atRest (by rwa [hsplit, ht.cfg]) (by rwa [ht.cfg]) (Nat.succ.inj hlen)
    rw [hsplit, hcount] at hrun
    exact ⟨u, by simpa only [driverRun, hgoes, hiter] using hrun, ht.trans hu⟩

/-- Settles O60: the start state is a link at rest with an empty log. -/
theorem idealLinkDeliversInOrder : Obligations.IdealLinkDeliversInOrder := by
  intro payloads deltas s hr hs hideal hempty hagree _ hstopped hlog hroom hfit hlen
  have hrest : LinkAtRest s := ⟨hr, hideal, hs.2.1, hempty, hagree, hstopped⟩
  obtain ⟨t, hrun, ht⟩ := driverRun_atRest payloads hrest (by simpa [hlog] using hroom) hfit hlen
  have htlog := ht.log
  simp only [hlog, List.nil_append, List.length_nil] at hrun htlog
  exact ⟨t, hrun, htlog, ht.retxCount, ht.atRest.running.1, ht.atRest.windowEmpty, ht.atRest.timerStopped⟩

end Sys2Proof.Machine
end

section
/-! PROOFS. Control (44_control.md): TICK (R231), and what READ_BUF and READ_LOG answer (R234, R235). -/

namespace Sys2Proof.Machine

/-- Settles O50: a running block adds the operand to `now` and answers. -/
theorem tickAdvancesNow : Obligations.TickAdvancesNow := fun d _ hr => exec_running hr (.tick d)

/-! ### The answer of READ_BUF (R234) -/

theorem slotAnswer_of_taken {q : Byte} {s : State} {f : Frame} (hq : q.toNat < maxSeq s.cfg)
    (hf : bufRead q.toNat s.buf = some f) : slotAnswer q s = respond .ok [.frame f] s := by
  simp only [slotAnswer, hf]
  exact if_neg (Nat.not_le.mpr hq)

theorem slotAnswer_of_empty {q : Byte} {s : State} (hnone : bufRead q.toNat s.buf = none) :
    slotAnswer q s = respond .noEntry [] s := by
  simp only [slotAnswer, hnone]

/-- From MAX_SEQ up the answer is NO_ENTRY whatever the buffer holds there. -/
theorem slotAnswer_of_out_of_range {q : Byte} {s : State} (hq : maxSeq s.cfg ≤ q.toNat) :
    slotAnswer q s = respond .noEntry [] s := by
  cases hf : bufRead q.toNat s.buf with
  | none => exact slotAnswer_of_empty hf
  | some f =>
    simp only [slotAnswer, hf]
    exact if_pos hq

/-- Settles O52: a taken slot in range is answered with its frame; a number out of range or an empty slot has none. -/
theorem readBufAnswersTheSlot : Obligations.ReadBufAnswersTheSlot := by
  intro q s hr
  rw [exec_running hr, effect]
  refine ⟨?taken, ?noEntry⟩
  case taken =>
    intro f hq hf
    rw [slotAnswer_of_taken hq hf, respond]
  case noEntry =>
    rintro (hq | hnone)
    · rw [slotAnswer_of_out_of_range hq, respond]
    · rw [slotAnswer_of_empty hnone, respond]

/-! ### The answer of READ_LOG (R235) -/

theorem entryAnswer_of_entry {n : BitVec 16} {s : State} {p : Bytes} (hp : s.log[n.toNat]? = some p) :
    entryAnswer n s = respond .ok [.wire (some p)] s := by
  simp only [entryAnswer, hp]

theorem entryAnswer_of_length_le {n : BitVec 16} {s : State} (hn : s.log.length ≤ n.toNat) :
    entryAnswer n s = respond .noEntry [] s := by
  simp only [entryAnswer, List.getElem?_eq_none hn]

/-- Settles O53: the log has an entry at the index, or the index is at or past its length. -/
theorem readLogAnswersTheEntry : Obligations.ReadLogAnswersTheEntry := by
  intro n s hr
  rw [exec_running hr, effect]
  refine ⟨?entry, ?noEntry⟩
  case entry =>
    intro p hp
    rw [entryAnswer_of_entry hp, respond]
  case noEntry =>
    intro hn
    rw [entryAnswer_of_length_le hn, respond]

end Sys2Proof.Machine
end

section
/-! PROOFS. Exceptions (60_exceptions.md): what a halted block answers (R255, R257), and that no step stops the block
(R253, R281). -/

namespace Sys2Proof.Machine

/-! ### A halted block (R255, R257) -/

/-- Every instruction but READ and RESET is guarded. -/
theorem exec_halted {i : Instr} {s : State} (hf : s.fault ≠ 0) (hreset : i ≠ .reset) (hread : ∀ sel, i ≠ .read sel) :
    exec i s = .next (respond .halted [] s) := by
  cases i
  case read sel => exact absurd rfl (hread sel)
  case reset => exact absurd rfl hreset
  all_goals exact guarded_halted hf _

theorem skipsHaltedCheck_eq_false {cmd : Bytes} (hread : cmd.head? ≠ some (opcodeByte .read))
    (hreset : cmd.head? ≠ some (opcodeByte .reset)) : skipsHaltedCheck cmd = false := by
  cases cmd with
  | nil => rfl
  | cons b rest =>
    rw [List.head?_cons, ne_eq, Option.some_inj] at hread hreset
    simp [skipsHaltedCheck, hread, hreset]

/-- The halted check comes before the check of the encoding (R255). -/
theorem rejectCommand_halted {cmd : Bytes} {s : State} (hf : s.fault ≠ 0) (hskip : skipsHaltedCheck cmd = false) :
    rejectCommand cmd s = .next (respond .halted [] s) := by
  have hh : halted s = true := bne_iff_ne.mpr hf
  simp [rejectCommand, hh, hskip]

/-- Settles O14: the guard answers for a legal command, the rejection's own halted check for an illegal one. -/
theorem haltedBlockOnlyAnswersHalted : Obligations.HaltedBlockOnlyAnswersHalted := by
  refine ⟨?legal, ?illegal⟩
  case legal => exact fun _ _ hf hreset hread => exec_halted hf hreset hread
  case illegal =>
    intro s cmd rest e hf h hd hread hreset
    have hdrop : (dropCommand s).fault ≠ 0 := hf
    rw [step_of_decode_error h hd, rejectCommand_halted hdrop (skipsHaltedCheck_eq_false hread hreset),
      dropCommand_eq h, respond]

/-! ### No step stops the block (R253) -/

/-- Rejecting a byte string answers a next state, whether the block is halted or not. -/
theorem rejectCommand_answers (cmd : Bytes) (s : State) : ∃ t, rejectCommand cmd s = .next t := by
  unfold rejectCommand
  split
  · exact ⟨_, rfl⟩
  · exact ⟨_, rfl⟩

/-- So does a guarded command, on a block that is halted or has a legal configuration. -/
theorem guarded_answers {s : State} (h : s.fault = 0 → cfgLegal s.cfg = true) (r : State) :
    ∃ t, guarded s r = .next t := by
  by_cases hf : s.fault = 0
  · exact ⟨_, guarded_running ⟨hf, h hf⟩ r⟩
  · exact ⟨_, guarded_halted hf r⟩

/-- So does every instruction: READ and RESET from any state, the others by the guard. -/
theorem exec_answers {s : State} (h : s.fault = 0 → cfgLegal s.cfg = true) (i : Instr) : ∃ t, exec i s = .next t := by
  cases i
  case read => exact ⟨_, rfl⟩
  case reset => exact ⟨_, rfl⟩
  all_goals exact guarded_answers h _

/-- Settles O15: the block is idle, or executes or rejects the oldest command; taking the command off the port keeps
`fault` and `cfg`. -/
theorem everyStepAnswersANextState : Obligations.EveryStepAnswersANextState := by
  intro s h
  unfold step
  split
  · exact ⟨s, rfl⟩
  · next cmd rest hcmd =>
    split
    · next i hd => exact exec_answers (s := dropCommand s) h i
    · next e hd => exact rejectCommand_answers cmd (dropCommand s)

end Sys2Proof.Machine
end

section
/-! PROOFS. The idle block (60_exceptions.md, power states; R262 and the log's assumption 2). -/

namespace Sys2Proof.Machine

/-- The idle branch, beside `step_of_decode_ok` and `step_of_decode_error`. -/
theorem step_of_commands_nil {s : State} (h : s.commands = []) : step s = .next s := by
  simp only [step, h]

/-- Settles O13: with no command pending, the step takes its idle branch. -/
theorem idleStepKeepsAllState : Obligations.IdleStepKeepsAllState :=
  fun _ h => step_of_commands_nil h

end Sys2Proof.Machine
end
